-- ==== Sys2Proof/Word.lean ====
section
/-! DEFINITION. The two word types of the block: bytes (00_scope.md R6, REG_WIDTH) and 16-bit words
(I_WIDTH, PC_WIDTH, STACK_ENTRY_WIDTH, and every instruction, 30_encoding.md R70). -/

namespace Sys2Proof

/-- 8 bits: a general register, a timer, a memory byte. -/
abbrev Byte := BitVec 8

/-- 16 bits: `I`, `PC`, a call-stack slot, an instruction word. -/
abbrev Word := BitVec 16

end Sys2Proof
end

