-- ==== Sys2Proof/Syntax.lean ====
section
/-! DEFINITION. The 34 instructions (30_encoding.md R78; spec/opcode_table.json), one constructor per
row, in the table's order. Operands are those of R74: `x` and `y` index the sixteen registers, `nn` is a
byte, `nnn` a 12-bit literal, `n` the row count of a sprite. -/

namespace Sys2Proof

/-- A register index, the 4-bit value of an instruction field (R21, R76). -/
abbrev Reg := Fin 16

/-- One instruction. -/
inductive Instr where
  /-- `00E0` CLS (R100). -/
  | cls
  /-- `00EE` RET (R110). -/
  | ret
  /-- `1NNN` JP nnn (R111). -/
  | jp (nnn : BitVec 12)
  /-- `2NNN` CALL nnn (R112). -/
  | call (nnn : BitVec 12)
  /-- `3XNN` SE Vx, nn (R121). -/
  | seImm (x : Reg) (nn : Byte)
  /-- `4XNN` SNE Vx, nn (R122). -/
  | sneImm (x : Reg) (nn : Byte)
  /-- `5XY0` SE Vx, Vy (R123). -/
  | seReg (x y : Reg)
  /-- `6XNN` LD Vx, nn (R132). -/
  | ldImm (x : Reg) (nn : Byte)
  /-- `7XNN` ADD Vx, nn (R133). -/
  | addImm (x : Reg) (nn : Byte)
  /-- `8XY0` LD Vx, Vy (R134). -/
  | ldReg (x y : Reg)
  /-- `8XY1` OR Vx, Vy (R135). -/
  | orReg (x y : Reg)
  /-- `8XY2` AND Vx, Vy (R136). -/
  | andReg (x y : Reg)
  /-- `8XY3` XOR Vx, Vy (R137). -/
  | xorReg (x y : Reg)
  /-- `8XY4` ADD Vx, Vy (R138). -/
  | addReg (x y : Reg)
  /-- `8XY5` SUB Vx, Vy (R139). -/
  | sub (x y : Reg)
  /-- `8XY6` SHR Vx, Vy (R140). -/
  | shr (x y : Reg)
  /-- `8XY7` SUBN Vx, Vy (R141). -/
  | subn (x y : Reg)
  /-- `8XYE` SHL Vx, Vy (R142). -/
  | shl (x y : Reg)
  /-- `9XY0` SNE Vx, Vy (R124). -/
  | sneReg (x y : Reg)
  /-- `ANNN` LD I, nnn (R150). -/
  | ldI (nnn : BitVec 12)
  /-- `BNNN` JP V0, nnn (R113). -/
  | jpV0 (nnn : BitVec 12)
  /-- `CXNN` RND Vx, nn (R143). -/
  | rnd (x : Reg) (nn : Byte)
  /-- `DXYN` DRW Vx, Vy, n (R101); the count `n` is 0 to 15 in a well-formed instruction. -/
  | drw (x y : Reg) (n : Nat)
  /-- `EX9E` SKP Vx (R125). -/
  | skp (x : Reg)
  /-- `EXA1` SKNP Vx (R126). -/
  | sknp (x : Reg)
  /-- `FX07` LD Vx, DT (R170). -/
  | ldVxDt (x : Reg)
  /-- `FX0A` LD Vx, K (R171). -/
  | ldVxK (x : Reg)
  /-- `FX15` LD DT, Vx (R172). -/
  | ldDtVx (x : Reg)
  /-- `FX18` LD ST, Vx (R173). -/
  | ldStVx (x : Reg)
  /-- `FX1E` ADD I, Vx (R151). -/
  | addIVx (x : Reg)
  /-- `FX29` LD F, Vx (R152). -/
  | ldFVx (x : Reg)
  /-- `FX33` LD B, Vx (R153). -/
  | ldBVx (x : Reg)
  /-- `FX55` LD [I], Vx (R154). -/
  | ldMemVx (x : Reg)
  /-- `FX65` LD Vx, [I] (R155). -/
  | ldVxMem (x : Reg)
deriving DecidableEq, Repr

end Sys2Proof
end

