-- ==== Sys2Proof/WellFormed.lean ====
section
/-! DEFINITION. Which terms of `Instr` are instructions of the block. The types of the other operands
hold exactly the values of their fields (30_encoding.md R74, R76), so the one check is that the row
count of `DXYN` fits its 4-bit field (DESIGN CHOICE, log entry 12). -/

namespace Sys2Proof

/-- A sprite has 0 to 15 rows (40_display.md R101; field `N` of R74). -/
def rowCountFits (n : Nat) : Bool := decide (n ≤ 15)

/-- The check of each instruction. -/
def wellFormed : Instr → Bool
  | .drw _ _ n => rowCountFits n
  | .cls | .ret | .jp _ | .call _ | .seImm _ _ | .sneImm _ _ | .seReg _ _ | .ldImm _ _
  | .addImm _ _ | .ldReg _ _ | .orReg _ _ | .andReg _ _ | .xorReg _ _ | .addReg _ _ | .sub _ _
  | .shr _ _ | .subn _ _ | .shl _ _ | .sneReg _ _ | .ldI _ | .jpV0 _ | .rnd _ _ | .skp _ | .sknp _
  | .ldVxDt _ | .ldVxK _ | .ldDtVx _ | .ldStVx _ | .addIVx _ | .ldFVx _ | .ldBVx _ | .ldMemVx _
  | .ldVxMem _ => true

/-- The instruction's operands fit the fields of its encoding. -/
abbrev WellFormed (i : Instr) : Prop := wellFormed i = true

end Sys2Proof
end

