-- ==== Sys2Proof/Config.lean ====
section
/-! DEFINITION. The configuration of the block (00_scope.md R7 and R9) and its one free value, the
pseudo-random byte (00_scope.md R8). The default configuration is in Machine/Defaults.lean. -/

namespace Sys2Proof

/-- `QUIRK_SHIFT` (R9): which register `8XY6` and `8XYE` shift (R140, R142; R144). -/
inductive QuirkShift where
  /-- `SHIFT_FROM_Y`, the default: Vx <- Vy shifted. -/
  | fromY
  /-- `SHIFT_IN_PLACE`: Vx <- Vx shifted. -/
  | inPlace
deriving DecidableEq, Repr

/-- `QUIRK_LOADSTORE_I` (R9): what `FX55` and `FX65` do to `I` (R154, R155; R156). -/
inductive QuirkLoadStoreI where
  /-- `I_UNCHANGED`, the default. -/
  | unchanged
  /-- `I_INCREMENT`: `I` ends just past the last byte moved (UNVERIFIED amount, log entry 6). -/
  | increment
deriving DecidableEq, Repr

/-- `QUIRK_DRAW_EDGE` (R9): pixels past the screen edge (R101; R102). -/
inductive QuirkDrawEdge where
  /-- `CLIP`, the default. -/
  | clip
  /-- `WRAP`: per-pixel modulo (UNVERIFIED form, log entry 6). -/
  | wrap
deriving DecidableEq, Repr

/-- `QUIRK_ARITH_FLAG` (R9, R145) has the one value `TABLE`; the type refuses any other value. -/
inductive QuirkArithFlag where
  /-- `TABLE`: R138, R139 and R141 with R131. -/
  | table
deriving DecidableEq, Repr

/-- The parameters of R7 and R9. They are fixed for a machine and are not state of the block (R20);
`State` carries them because the step has no other argument (DESIGN CHOICE, log entry 3). -/
structure Config where
  /-- `FONT`, the 80 bytes of the built-in glyphs (R7, OPEN by 92_eei_decisions.md D11). -/
  font : Vector Byte 80
  /-- `QUIRK_SHIFT`. -/
  shift : QuirkShift
  /-- `QUIRK_LOADSTORE_I`. -/
  loadStoreI : QuirkLoadStoreI
  /-- `QUIRK_DRAW_EDGE`. -/
  drawEdge : QuirkDrawEdge
  /-- `QUIRK_ARITH_FLAG`. -/
  arithFlag : QuirkArithFlag
deriving DecidableEq, Repr

/-- The `n`-th pseudo-random byte a STEP carries when the host's command names none (R8, R143): a free
value, with no body, so a claim holds for every byte (DESIGN CHOICE of form, log entry 5). -/
opaque Config.freeRnd : Nat → Byte

end Sys2Proof
end

