-- ==== Sys2Proof/Machine/Defaults.lean ====
section
/-! DEFINITION. The default values of the parameters (00_scope.md R7 and R9; 10_state.md R36). -/

namespace Sys2Proof.Machine

/-- The default `FONT`: glyph `d` is the five bytes 5d to 5d + 4, top row first (10_state.md R36).
UNVERIFIED, log entry 4: the spec marks these bytes as general knowledge (93 G1). Unsafe. -/
def defaultFont : Vector Byte 80 :=
  (#v[0xF0, 0x90, 0x90, 0x90, 0xF0,
      0x20, 0x60, 0x20, 0x20, 0x70,
      0xF0, 0x10, 0xF0, 0x80, 0xF0,
      0xF0, 0x10, 0xF0, 0x10, 0xF0] : Vector Byte 20) ++
    (#v[0x90, 0x90, 0xF0, 0x10, 0x10,
      0xF0, 0x80, 0xF0, 0x10, 0xF0,
      0xF0, 0x80, 0xF0, 0x90, 0xF0,
      0xF0, 0x10, 0x20, 0x40, 0x40] : Vector Byte 20) ++
    (#v[0xF0, 0x90, 0xF0, 0x90, 0xF0,
      0xF0, 0x90, 0xF0, 0x10, 0xF0,
      0xF0, 0x90, 0xF0, 0x90, 0x90,
      0xE0, 0x90, 0xE0, 0x90, 0xE0] : Vector Byte 20) ++
    (#v[0xF0, 0x80, 0x80, 0x80, 0xF0,
      0xE0, 0x90, 0x90, 0x90, 0xE0,
      0xF0, 0x80, 0xF0, 0x80, 0xF0,
      0xF0, 0x80, 0xF0, 0x80, 0x80] : Vector Byte 20)

/-- The normative configuration: every quirk at its default (R2, R9) and the default font (R7). -/
def defaultConfig : Config where
  font := defaultFont
  shift := .fromY
  loadStoreI := .unchanged
  drawEdge := .clip
  arithFlag := .table

end Sys2Proof.Machine
end

