-- ==== Sys2Proof/Machine/State.lean ====
section
/-! DEFINITION. The state of the block: the eleven elements of 10_state.md R20, then the model's own
fields, each marked as such. Plain data throughout. -/

namespace Sys2Proof.Machine

/-- Memory as the bytes that differ from the reset contents, by rising address (log entry 8). -/
abbrev Memory := List Host.Cell

/-- The framebuffer, 32 rows of 64 one-bit pixels (10_state.md R33); row `y` is element `y`. -/
abbrev Framebuffer := Vector (Vector Bool 64) 32

/-- What a command reports, with the information recorded (60_exceptions.md R180). -/
inductive Status where
  /-- Code 0. -/
  | ok
  /-- Code 1, with the word: a STEP whose word is no instruction (R72). -/
  | unknownOpcode (word : Word)
  /-- Code 2: `2NNN` with 16 entries held (R112). -/
  | stackOverflow
  /-- Code 3: `00EE` with none held (R110). -/
  | stackUnderflow
  /-- Code 4, with the first address at or above 0x1000 the access would touch (R54 to R56). -/
  | addressOutOfRange (address : Nat)
  /-- Code 5, with the first address below 0x200 the store would write (R55). -/
  | writeProtected (address : Nat)
  /-- Code 6, with the value of Vx: `EX9E` or `EXA1` above 0xF (R127). -/
  | invalidKeyIndex (value : Byte)
  /-- Code 7, with the image length: LOAD of more than 3584 bytes (R213). -/
  | programTooLarge (length : Nat)
deriving DecidableEq, Repr

/-- Reasons the machine stops with a fault: there are none. What the source calls errors are statuses,
after each of which the block goes on with the next state R184 gives (60_exceptions.md R183, R186,
R187), so every raise is a next state (DEDUCED, log entry 1). Safe: nothing is hidden by it, since the
status and the fault mark stand in the state. -/
inductive Fault
deriving DecidableEq, Repr

/-- Reasons an instruction has no meaning. -/
inductive Refusal where
  /-- Raised by an arm of `exec` for an instruction that has no meaning yet. Every instruction has one,
  so no arm raises it. Safe. -/
  | notModelled (mnemonic : String)
deriving DecidableEq, Repr

/-- The state of the block between two commands. -/
structure State where
  /-- `MEM` (R20, R35), the bytes that differ from the reset contents. -/
  mem : Memory
  /-- `V[0..15]` (R20, R21); `V[15]` is VF (R22). -/
  v : Vector Byte 16
  /-- `I` (R20, R28). -/
  i : Word
  /-- `PC` (R20, R24). -/
  pc : Word
  /-- `STACK[0..15]` (R20, R29). -/
  stack : Vector Word 16
  /-- `SP`, 0 to 16, the number of entries held (R20, R29; log entry 9). -/
  sp : Fin 17
  /-- `DT` (R20, R31). -/
  dt : Byte
  /-- `ST` (R20, R31). -/
  st : Byte
  /-- `KEY[0..15]` (R20, R32). -/
  keys : Vector Bool 16
  /-- `FB` (R20, R33). -/
  fb : Framebuffer
  /-- `NR`, needsRedraw (R20, R34). -/
  nr : Bool
  /-- The model's own: the parameters of R7 and R9; no command writes them (log entry 3). -/
  cfg : Config
  /-- The model's own: the status the last command reported (R180). -/
  status : Status
  /-- The model's own: the first status other than `OK` of the run (R187). -/
  faultMark : Option Status
  /-- The model's own: the byte `rnd` of the STEP in progress, where its command names one (R8). -/
  rndIn : Option Byte
  /-- The model's own: how many free random bytes have been drawn (R8; log entry 5). -/
  draws : Nat
deriving DecidableEq, Repr

/-- The blank framebuffer. -/
def Framebuffer.blank : Framebuffer := Vector.replicate 32 (Vector.replicate 64 false)

/-- The state of a newly created block with configuration `c` (70_reset_and_hazards.md R211): the
values of 10_state.md R40. -/
def State.created (c : Config) : State where
  mem := []
  v := Vector.replicate 16 0#8
  i := 0#16
  pc := 0x200#16
  stack := Vector.replicate 16 0#16
  sp := 0
  dt := 0#8
  st := 0#8
  keys := Vector.replicate 16 false
  fb := Framebuffer.blank
  nr := false
  cfg := c
  status := .ok
  faultMark := none
  rndIn := none
  draws := 0

/-- The machine right after reset, in its normative configuration (R40, R210; R2). -/
def State.reset : State := State.created defaultConfig

end Sys2Proof.Machine
end

