-- ==== Sys2Proof/Machine/Memory.lean ====
section
/-! DEFINITION. Memory as a canonical list: what an unlisted address reads as, the read and the write
of one byte, and the form every operation keeps (10_state.md R35, R40; 20_memory.md R50, R51). -/

namespace Sys2Proof.Machine

/-- What a byte that nothing has written reads as: its reset value, `FONT` in 0x000 to 0x04F and 0
elsewhere (10_state.md R35, R40). -/
def Memory.unlisted (font : Vector Byte 80) (a : Nat) : Byte :=
  if h : a < 80 then font[a] else 0#8

/-- The byte at `a`. -/
def Memory.read (font : Vector Byte 80) : Memory → Nat → Byte
  | [], a => Memory.unlisted font a
  | (b, v) :: m, a => if a = b then v else Memory.read font m a

/-- `m` with one more entry, in its place by address. -/
def Memory.insertCell (c : Host.Cell) : Memory → Memory
  | [] => [c]
  | d :: m => if c.1 < d.1 then c :: d :: m else d :: Memory.insertCell c m

/-- `m` without an entry at `a`. -/
def Memory.erase (m : Memory) (a : Nat) : Memory := m.filter fun c => !(c.1 == a)

/-- `m` with the byte `v` at `a`, in canonical form: a byte equal to what an unlisted address reads as
has no entry. -/
def Memory.write (font : Vector Byte 80) (m : Memory) (a : Nat) (v : Byte) : Memory :=
  if v = Memory.unlisted font a then Memory.erase m a else Memory.insertCell (a, v) (Memory.erase m a)

/-- The canonical form: addresses strictly rising, all below 0x1000, and no entry equal to what an
unlisted address reads as. -/
abbrev Memory.wf (font : Vector Byte 80) (m : Memory) : Prop :=
  m.Pairwise (fun c d => c.1 < d.1) ∧ ∀ c ∈ m, c.1 < 0x1000 ∧ c.2 ≠ Memory.unlisted font c.1

end Sys2Proof.Machine
end

