-- ==== Sys2Proof/Machine/Ops.lean ====
section
/-! DEFINITION. The named operations over the state: the read and the write of each element, the
address checks, the fetch, the call stack, reporting a status (the spec's one way an instruction
fails) and completing. -/

namespace Sys2Proof.Machine

/-- What a meaning and a step answer. -/
abbrev Result := Host.Outcome State Fault Refusal

/-! ### Registers, pixels, flags, one by one (00_scope.md R12) -/

/-- `V[r]` (R21). -/
def State.getV (s : State) (r : Reg) : Byte := s.v[r]
/-- `V[r] <- b` (R21). -/
def State.setV (s : State) (r : Reg) (b : Byte) : State := { s with v := s.v.set r b }
/-- All sixteen registers at once (`FX65`, R155). -/
def State.setRegs (s : State) (v : Vector Byte 16) : State := { s with v := v }
/-- VF, the flag register (R22). -/
def regF : Reg := 15
/-- `I <- w` (R28). -/
def State.setI (s : State) (w : Word) : State := { s with i := w }
/-- `PC <- w` (R24). -/
def State.setPc (s : State) (w : Word) : State := { s with pc := w }
/-- `DT <- b` (R31). -/
def State.setDt (s : State) (b : Byte) : State := { s with dt := b }
/-- `ST <- b` (R31). -/
def State.setSt (s : State) (b : Byte) : State := { s with st := b }
/-- `NR <- b` (R34). -/
def State.setNr (s : State) (b : Bool) : State := { s with nr := b }
/-- `FB <- f` (R33). -/
def State.setFb (s : State) (f : Framebuffer) : State := { s with fb := f }
/-- `KEY[0..15] <- k` (R32); only SET_KEYS uses it (R195). -/
def State.setKeys (s : State) (k : Vector Bool 16) : State := { s with keys := k }
/-- `KEY[k]` (R32). -/
def State.key (s : State) (k : Fin 16) : Bool := s.keys[k]
/-- `STACK[j]` (R29). -/
def State.slot (s : State) (j : Fin 16) : Word := s.stack[j]
/-- `FB[x, y]`: column `x`, row `y` (R33). -/
def Framebuffer.pixel (f : Framebuffer) (p : Fin 64 × Fin 32) : Bool := f[p.2][p.1]
/-- `FB[p] <- FB[p] ^ 1` (R101). -/
def Framebuffer.flip (f : Framebuffer) (p : Fin 64 × Fin 32) : Framebuffer :=
  f.set p.2 (f[p.2].set p.1 (!f[p.2][p.1]))

/-! ### Memory bytes and the address checks (20_memory.md R54, R55, R57) -/

/-- `MEM[a]`, with no check. -/
def State.readByte (s : State) (a : Nat) : Byte := Memory.read s.cfg.font s.mem a
/-- `MEM[a] <- b`, with no check. -/
def State.writeByte (s : State) (a : Nat) (b : Byte) : State :=
  { s with mem := Memory.write s.cfg.font s.mem a b }
/-- The bytes at `a`, `a + 1`, …, `n` of them. -/
def State.readBytes (s : State) (a n : Nat) : List Byte := (List.range n).map fun k => s.readByte (a + k)
/-- Write a list of bytes at `a`, `a + 1`, … in that order. -/
def State.writeBytes (s : State) (a : Nat) : List Byte → State
  | [] => s
  | b :: bs => (s.writeByte a b).writeBytes (a + 1) bs

/-- The condition of `MemRead` (R54): the status it raises at `a`, if any. -/
def readCheck (a : Nat) : Option Status :=
  if 0x1000 ≤ a then some (.addressOutOfRange a) else none
/-- The conditions of `MemWrite` (R55): the status it raises at `a`, if any. -/
def writeCheck (a : Nat) : Option Status :=
  if 0x1000 ≤ a then some (.addressOutOfRange a)
  else if a < 0x200 then some (.writeProtected a)
  else none
/-- All the addresses of an access of `n` bytes at `a`, in rising order: the first that fails (R57). -/
def checkAll (check : Nat → Option Status) (a n : Nat) : Option Status :=
  (List.range n).findSome? fun k => check (a + k)

/-! ### Reporting a status (60_exceptions.md R180, R183, R184, R187) -/

/-- The status a command reports; the first one other than `OK` sets the fault mark, which nothing
clears (R187). -/
def State.report (s : State) (e : Status) : State :=
  { s with
    status := e
    faultMark := if s.faultMark = none ∧ e ≠ .ok then some e else s.faultMark }
/-- `raise S(info)` (00_scope.md R13): the command ends at once with the state it has, which is the one
R184 gives because every check comes before every write. It saves nothing and goes nowhere (R183), and
there is no return from it (R186). -/
def raise (e : Status) (s : State) : Result := .next (s.report e)
/-- A rule that ends without a raise ends with status `OK` (00_scope.md R13). -/
def finish (s : State) : Result := .next (s.report .ok)

/-! ### Instruction fetch (20_memory.md R56; 30_encoding.md R71) -/

/-- `Fetch()` (R56): the big-endian word at `PC`, or the status it raises. -/
def fetch (s : State) : Except Status Word :=
  if 0x1000 ≤ s.pc.toNat + 1 then .error (.addressOutOfRange (max s.pc.toNat 0x1000))
  else .ok (wordOfBytes (s.readByte s.pc.toNat) (s.readByte (s.pc.toNat + 1)))
/-- `PC <- (a + 2) mod 2^16`: the advance before execution (R71), and the skip (42_skip.md R120). -/
def State.advance (s : State) : State := s.setPc (s.pc + 2#16)
/-- Lay a word at `PC` as the hardware stores it (R52): what a LOAD of it there leaves. Where no
instruction can be fetched at `PC` (R56), at the entry point 0x200, with `PC` set to it. -/
def State.placeWord (s : State) (w : Word) : State :=
  if s.pc.toNat + 1 < 0x1000 then s.writeBytes s.pc.toNat [highByte w, lowByte w]
  else (s.setPc 0x200#16).writeBytes 0x200 [highByte w, lowByte w]

/-! ### The call stack (10_state.md R29, R30) -/

/-- `Push(v)`: `none` where it raises `STACK_OVERFLOW`. -/
def State.push (s : State) (w : Word) : Option State :=
  if h : s.sp.val < 16 then
    some { s with stack := s.stack.set s.sp.val w h, sp := ⟨s.sp.val + 1, by omega⟩ }
  else none
/-- `Pop()`: the newest entry and the state without it, its slot unchanged (R30); `none` where it raises
`STACK_UNDERFLOW`. -/
def State.pop (s : State) : Option (Word × State) :=
  if h : 0 < s.sp.val then
    some (s.stack[s.sp.val - 1]'(by omega), { s with sp := ⟨s.sp.val - 1, by omega⟩ })
  else none

/-! ### The random byte (00_scope.md R8) -/

/-- The byte `rnd` of this STEP, and the state in which it has been used: the byte the command names,
or the next free byte. -/
def State.takeRnd (s : State) : Byte × State :=
  match s.rndIn with
  | some r => (r, { s with rndIn := none })
  | none => (Config.freeRnd s.draws, { s with draws := s.draws + 1 })

end Sys2Proof.Machine
end

