-- ==== Sys2Proof/Machine/Operands.lean ====
section
/-! DEFINITION. Every operand form: the zero-extensions of 30_encoding.md R76, the effective addresses
`I + k` of 44_index_memory.md R157, the operand of a shift and the final `I` of a block move under each
quirk, the key a register names, the decimal digits of a byte, and the bytes a block store moves. -/

namespace Sys2Proof.Machine

/-- `zext_16` of a byte (00_scope.md R11). -/
def zextByte (b : Byte) : Word := b.setWidth 16
/-- `zext_16` of a 12-bit literal (30_encoding.md R76). -/
def zextAddr (nnn : BitVec 12) : Word := nnn.setWidth 16

/-- The address of byte 0 of a data access: `I`, as an unbounded integer (R157). -/
def State.dataBase (s : State) : Nat := s.i.toNat

/-- The value `8XY6` and `8XYE` shift: Vy by default, Vx in place (43_alu.md R140, R142, R144). -/
def State.shiftOperand (s : State) (x y : Reg) : Byte :=
  match s.cfg.shift with
  | .fromY => s.getV y
  | .inPlace => s.getV x

/-- `I` after `FX55` or `FX65`: unchanged by default, past the last byte moved under `I_INCREMENT`
(44_index_memory.md R154 to R156). -/
def State.indexAfterMove (s : State) (x : Reg) : Word :=
  match s.cfg.loadStoreI with
  | .unchanged => s.i
  | .increment => s.i + BitVec.ofNat 16 (x.val + 1)

/-- The key a register's value names; `none` above 0xF, where no key exists (42_skip.md R127). -/
def keyNamed (b : Byte) : Option (Fin 16) :=
  if h : b.toNat < 16 then some ⟨b.toNat, h⟩ else none

/-- The lowest-numbered set key, if any is set (45_timer_input.md R171). -/
def State.lowestKey (s : State) : Option (Fin 16) := (List.finRange 16).find? fun k => s.key k

/-- The number of a key as a register value. -/
def keyNumber (k : Fin 16) : Byte := BitVec.ofNat 8 k.val

/-- The hundreds, tens and ones digits of a byte (44_index_memory.md R153). -/
def decimalDigits (b : Byte) : List Byte :=
  [BitVec.ofNat 8 (b.toNat / 100), BitVec.ofNat 8 (b.toNat / 10 % 10), BitVec.ofNat 8 (b.toNat % 10)]

/-- How many bytes `FX55` and `FX65` move: V0 to Vx (R154, R155). -/
def blockLength (x : Reg) : Nat := x.val + 1

/-- V0 to Vx, the bytes `FX55` stores (R154). -/
def State.regBlock (s : State) (x : Reg) : List Byte := s.v.toList.take (blockLength x)

/-- The registers after `FX65`: `MEM[base + k]` in V[k] for k in 0 to x, the others as they were (R155). -/
def State.loadedRegs (s : State) (x : Reg) (base : Nat) : Vector Byte 16 :=
  Vector.ofFn fun k => if k ≤ x then s.readByte (base + k.val) else s.getV k

end Sys2Proof.Machine
end

