-- ==== Sys2Proof/Machine/Flags.lean ====
section
/-! DEFINITION. Every flag computation: VF is the one flag register (10_state.md R22, R37; 43_alu.md
R130, R131), written last. Sums and differences are computed exactly and narrowed at the end. -/

namespace Sys2Proof.Machine

/-- A flag as VF holds it: 1 or 0. -/
def flagByte (b : Bool) : Byte := if b then 1#8 else 0#8

/-- Carry of Vx + Vy: the exact sum is above 255 (R138). -/
def carryFlag (a b : Byte) : Byte := flagByte (decide (255 < a.toNat + b.toNat))
/-- No borrow in `a - b`: the unsigned `a` is at least `b` (R139, R141). -/
def noBorrowFlag (a b : Byte) : Byte := flagByte (decide (b.toNat ≤ a.toNat))
/-- The bit `8XY6` reports: bit 0 of Vx (R140). -/
def lowBitFlag (vx : Byte) : Byte := flagByte (vx.getLsbD 0)
/-- The bit `8XYE` reports: bit 7 of Vx (R142). -/
def highBitFlag (vx : Byte) : Byte := flagByte (vx.getLsbD 7)

/-- `(a + b) mod 256` (R130, R138). -/
def sumByte (a b : Byte) : Byte := BitVec.ofNat 8 (a.toNat + b.toNat)
/-- `(a - b) mod 256` (R130, R139). -/
def diffByte (a b : Byte) : Byte := BitVec.ofInt 8 ((a.toNat : Int) - (b.toNat : Int))

/-- The result to Vx, then the flag to VF, so that with x = 0xF the flag stays (R131). -/
def State.setResultThenFlag (s : State) (x : Reg) (result flag : Byte) : State :=
  (s.setV x result).setV regF flag

end Sys2Proof.Machine
end

