-- ==== Sys2Proof/Machine/Alu.lean ====
section
/-! DEFINITION. Register loads and arithmetic (43_alu.md R130 to R145). The operands are bound before
the result and then the flag are written (R131). `QUIRK_ARITH_FLAG` has the one value `TABLE` (R145),
so no meaning reads it. -/

namespace Sys2Proof.Machine

/-- `6XNN` LD Vx, nn (R132). -/
def execLdImm (x : Reg) (nn : Byte) (s : State) : Result := finish (s.setV x nn)
/-- `7XNN` ADD Vx, nn (R133): no flag. -/
def execAddImm (x : Reg) (nn : Byte) (s : State) : Result := finish (s.setV x (sumByte (s.getV x) nn))
/-- `8XY0` LD Vx, Vy (R134). -/
def execLdReg (x y : Reg) (s : State) : Result := finish (s.setV x (s.getV y))
/-- `8XY1` OR Vx, Vy (R135). -/
def execOrReg (x y : Reg) (s : State) : Result :=
  finish (s.setResultThenFlag x (s.getV x ||| s.getV y) 0#8)
/-- `8XY2` AND Vx, Vy (R136). -/
def execAndReg (x y : Reg) (s : State) : Result :=
  finish (s.setResultThenFlag x (s.getV x &&& s.getV y) 0#8)
/-- `8XY3` XOR Vx, Vy (R137). -/
def execXorReg (x y : Reg) (s : State) : Result :=
  finish (s.setResultThenFlag x (s.getV x ^^^ s.getV y) 0#8)
/-- `8XY4` ADD Vx, Vy (R138). -/
def execAddReg (x y : Reg) (s : State) : Result :=
  finish (s.setResultThenFlag x (sumByte (s.getV x) (s.getV y)) (carryFlag (s.getV x) (s.getV y)))
/-- `8XY5` SUB Vx, Vy (R139). -/
def execSub (x y : Reg) (s : State) : Result :=
  finish (s.setResultThenFlag x (diffByte (s.getV x) (s.getV y)) (noBorrowFlag (s.getV x) (s.getV y)))
/-- `8XY6` SHR Vx, Vy (R140, R144): the flag comes from Vx (92_eei_decisions.md D33). -/
def execShr (x y : Reg) (s : State) : Result :=
  finish (s.setResultThenFlag x (s.shiftOperand x y >>> 1) (lowBitFlag (s.getV x)))
/-- `8XY7` SUBN Vx, Vy (R141). -/
def execSubn (x y : Reg) (s : State) : Result :=
  finish (s.setResultThenFlag x (diffByte (s.getV y) (s.getV x)) (noBorrowFlag (s.getV y) (s.getV x)))
/-- `8XYE` SHL Vx, Vy (R142, R144): the flag comes from Vx (92_eei_decisions.md D33). -/
def execShl (x y : Reg) (s : State) : Result :=
  finish (s.setResultThenFlag x (s.shiftOperand x y <<< 1) (highBitFlag (s.getV x)))
/-- `CXNN` RND Vx, nn (R143). -/
def execRnd (x : Reg) (nn : Byte) (s : State) : Result :=
  finish (s.takeRnd.2.setV x (s.takeRnd.1 &&& nn))

end Sys2Proof.Machine
end

