-- ==== Sys2Proof/Machine/Display.lean ====
section
/-! DEFINITION. `00E0` and `DXYN` (40_display.md R100 to R103). -/

namespace Sys2Proof.Machine

/-- `00E0` CLS (R100). -/
def execCls (s : State) : Result := finish ((s.setFb Framebuffer.blank).setNr true)

/-- `Bit(b, c) = b[7 - c]`: bit 7 of a sprite row is its leftmost pixel (R103; UNVERIFIED, log entry 7). -/
def spriteBit (b : Byte) (c : Nat) : Bool := b.getLsbD (7 - c)

/-- `Visible` and `Place` in one: where the sprite pixel at (px, py) falls on the grid, if it is visible
(R101 for CLIP, R102 for WRAP). -/
def placePixel (edge : QuirkDrawEdge) (px py : Nat) : Option (Fin 64 × Fin 32) :=
  match edge with
  | .clip => if h : px < 64 ∧ py < 32 then some (⟨px, h.1⟩, ⟨py, h.2⟩) else none
  | .wrap => some (⟨px % 64, Nat.mod_lt _ (by decide)⟩, ⟨py % 32, Nat.mod_lt _ (by decide)⟩)

/-- The visible set pixels of one sprite row at row `py` of the grid. -/
def rowPixels (edge : QuirkDrawEdge) (x0 py : Nat) (b : Byte) : List (Fin 64 × Fin 32) :=
  (List.range 8).filterMap fun c => if spriteBit b c then placePixel edge (x0 + c) py else none

/-- The set `P` of R101: the visible set pixels of a sprite whose first row is at row `y0`. -/
def spritePixels (edge : QuirkDrawEdge) (x0 y0 : Nat) : List Byte → List (Fin 64 × Fin 32)
  | [] => []
  | b :: bs => rowPixels edge x0 y0 b ++ spritePixels edge x0 (y0 + 1) bs

/-- `P` for a `DXYN` of state `s`: the sprite at `I`, at (Vx mod 64, Vy mod 32) (R101). -/
def State.drawnPixels (s : State) (x y : Reg) (n : Nat) : List (Fin 64 × Fin 32) :=
  spritePixels s.cfg.drawEdge ((s.getV x).toNat % 64) ((s.getV y).toNat % 32) (s.readBytes s.dataBase n)

/-- `hit`: some pixel of `P` is on before any changes (R101). -/
def Framebuffer.anyOn (f : Framebuffer) (ps : List (Fin 64 × Fin 32)) : Bool := ps.any f.pixel

/-- `FB[p] <- FB[p] ^ 1` for every p in `P` (R101). -/
def Framebuffer.flipAll (f : Framebuffer) (ps : List (Fin 64 × Fin 32)) : Framebuffer :=
  ps.foldl Framebuffer.flip f

/-- `DXYN` DRW Vx, Vy, n (R101): every address checked first, then the pixels, then VF, then NR. -/
def execDrw (x y : Reg) (n : Nat) (s : State) : Result :=
  match checkAll readCheck s.dataBase n with
  | some e => raise e s
  | none =>
    let ps := s.drawnPixels x y n
    finish (((s.setFb (s.fb.flipAll ps)).setV regF (flagByte (s.fb.anyOn ps))).setNr true)

end Sys2Proof.Machine
end

