-- ==== Sys2Proof/Machine/Flow.lean ====
section
/-! DEFINITION. Control transfer (41_flow.md R110 to R114). `PC` on entry is the instruction's address
plus 2 (30_encoding.md R71). -/

namespace Sys2Proof.Machine

/-- `00EE` RET (R110). -/
def execRet (s : State) : Result :=
  match s.pop with
  | none => raise .stackUnderflow s
  | some (w, s') => finish (s'.setPc w)

/-- `1NNN` JP nnn (R111). -/
def execJp (nnn : BitVec 12) (s : State) : Result := finish (s.setPc (zextAddr nnn))

/-- `2NNN` CALL nnn (R112): the pushed address is the advanced `PC` (90_conflicts.md C1). -/
def execCall (nnn : BitVec 12) (s : State) : Result :=
  match s.push s.pc with
  | none => raise .stackOverflow s
  | some s' => finish (s'.setPc (zextAddr nnn))

/-- `BNNN` JP V0, nnn (R113). -/
def execJpV0 (nnn : BitVec 12) (s : State) : Result :=
  finish (s.setPc (zextByte (s.getV 0) + zextAddr nnn))

end Sys2Proof.Machine
end

