-- ==== Sys2Proof/Machine/IndexMemory.lean ====
section
/-! DEFINITION. The index register, loads and stores (44_index_memory.md R150 to R157). Every address
is checked before any effect (20_memory.md R57). -/

namespace Sys2Proof.Machine

/-- `ANNN` LD I, nnn (R150). -/
def execLdI (nnn : BitVec 12) (s : State) : Result := finish (s.setI (zextAddr nnn))
/-- `FX1E` ADD I, Vx (R151): modulo 2^16, no flag. -/
def execAddIVx (x : Reg) (s : State) : Result := finish (s.setI (s.i + zextByte (s.getV x)))
/-- `FX29` LD F, Vx (R152): Vx is not reduced to 4 bits. -/
def execLdFVx (x : Reg) (s : State) : Result := finish (s.setI (zextByte (s.getV x) * 5#16))

/-- Store a list of bytes at `I` onward, all addresses checked first (R153, R154; R57). -/
def storeAtI (bs : List Byte) (s : State) : Except Status State :=
  match checkAll writeCheck s.dataBase bs.length with
  | some e => .error e
  | none => .ok (s.writeBytes s.dataBase bs)

/-- `FX33` LD B, Vx (R153). -/
def execLdBVx (x : Reg) (s : State) : Result :=
  match storeAtI (decimalDigits (s.getV x)) s with
  | .error e => raise e s
  | .ok s' => finish s'

/-- `FX55` LD [I], Vx (R154, R156). -/
def execLdMemVx (x : Reg) (s : State) : Result :=
  match storeAtI (s.regBlock x) s with
  | .error e => raise e s
  | .ok s' => finish (s'.setI (s.indexAfterMove x))

/-- `FX65` LD Vx, [I] (R155, R156). -/
def execLdVxMem (x : Reg) (s : State) : Result :=
  match checkAll readCheck s.dataBase (blockLength x) with
  | some e => raise e s
  | none => finish ((s.setRegs (s.loadedRegs x s.dataBase)).setI (s.indexAfterMove x))

end Sys2Proof.Machine
end

