-- ==== Sys2Proof/Machine/Skip.lean ====
section
/-! DEFINITION. Conditional skips (42_skip.md R120 to R127). -/

namespace Sys2Proof.Machine

/-- `if c: Skip()` (R120): a further advance of 2. -/
def skipIf (c : Bool) (s : State) : Result := finish (if c then s.advance else s)

/-- Skip when the key Vx names has the flag `wanted`; above 0xF there is no such key (R127). -/
def skipIfKey (wanted : Bool) (x : Reg) (s : State) : Result :=
  match keyNamed (s.getV x) with
  | none => raise (.invalidKeyIndex (s.getV x)) s
  | some k => skipIf (s.key k == wanted) s

/-- `3XNN` SE Vx, nn (R121). -/
def execSeImm (x : Reg) (nn : Byte) (s : State) : Result := skipIf (s.getV x == nn) s
/-- `4XNN` SNE Vx, nn (R122). -/
def execSneImm (x : Reg) (nn : Byte) (s : State) : Result := skipIf (s.getV x != nn) s
/-- `5XY0` SE Vx, Vy (R123). -/
def execSeReg (x y : Reg) (s : State) : Result := skipIf (s.getV x == s.getV y) s
/-- `9XY0` SNE Vx, Vy (R124). -/
def execSneReg (x y : Reg) (s : State) : Result := skipIf (s.getV x != s.getV y) s
/-- `EX9E` SKP Vx (R125). -/
def execSkp (x : Reg) (s : State) : Result := skipIfKey true x s
/-- `EXA1` SKNP Vx (R126). -/
def execSknp (x : Reg) (s : State) : Result := skipIfKey false x s

end Sys2Proof.Machine
end

