-- ==== Sys2Proof/Machine/TimerInput.lean ====
section
/-! DEFINITION. Timer and key-wait instructions (45_timer_input.md R170 to R173). -/

namespace Sys2Proof.Machine

/-- `FX07` LD Vx, DT (R170). -/
def execLdVxDt (x : Reg) (s : State) : Result := finish (s.setV x s.dt)
/-- `FX0A` LD Vx, K (R171): with no key set, `PC` goes back to this instruction; waiting is `OK`. -/
def execLdVxK (x : Reg) (s : State) : Result :=
  match s.lowestKey with
  | none => finish (s.setPc (s.pc - 2#16))
  | some k => finish (s.setV x (keyNumber k))
/-- `FX15` LD DT, Vx (R172). -/
def execLdDtVx (x : Reg) (s : State) : Result := finish (s.setDt (s.getV x))
/-- `FX18` LD ST, Vx (R173). -/
def execLdStVx (x : Reg) (s : State) : Result := finish (s.setSt (s.getV x))

end Sys2Proof.Machine
end

