-- ==== Sys2Proof/Machine/Step.lean ====
section
/-! DEFINITION. One STEP (30_encoding.md R71, R72): fetch, advance, decode, execute. -/

namespace Sys2Proof.Machine

/-- `Step(rnd)` (R71): `rnd` stands in the state (`State.takeRnd`). When the fetch raises, nothing
changes (20_memory.md R56); an illegal word raises after the advance (R72). -/
def step (s : State) : Host.Outcome State Fault Refusal :=
  match fetch s with
  | .error e => raise e s
  | .ok w =>
    match decode w with
    | none => raise (.unknownOpcode w) s.advance
    | some i => exec i s.advance

/-- `s` with the instruction `w` where `step` fetches next: the state a LOAD of it leaves (log entry 11). -/
def State.withFetchWord (s : State) (nbits w : Nat) : State := s.placeWord (tableWord nbits w)

end Sys2Proof.Machine
end

