-- ==== Sys2Proof/Machine/Commands.lean ====
section
/-! DEFINITION. The six commands of the host interface (60_exceptions.md R190, R191, R201), each one
atomic transition that reports one status, and runs of them in any order the host chooses. -/

namespace Sys2Proof.Machine

/-- A command with its inputs (R190). -/
inductive Command where
  /-- RESET (70_reset_and_hazards.md R210). -/
  | reset
  /-- LOAD(bytes) (R212, R213). -/
  | load (bytes : List Byte)
  /-- STEP(rnd) (30_encoding.md R71). -/
  | step (rnd : Byte)
  /-- TICK (60_exceptions.md R192). -/
  | tick
  /-- SET_KEYS(k) (R195). -/
  | setKeys (k : Vector Bool 16)
  /-- CLEAR_REDRAW (R196). -/
  | clearRedraw
deriving DecidableEq, Repr

/-- `PROGRAM_MAX` (00_scope.md R6). -/
def programMax : Nat := 3584
/-- `PROGRAM_BASE` (00_scope.md R6). -/
def programBase : Nat := 0x200

/-- RESET (R210): every element of the block at the value of R40. The configuration, the fault mark
(R187) and the count of random draws are not elements of the block and stay. -/
def State.resetAll (s : State) : State :=
  { State.created s.cfg with faultMark := s.faultMark, draws := s.draws }

/-- One timer's countdown (R192). -/
def countDown (b : Byte) : Byte := if b = 0#8 then 0#8 else b - 1#8

/-- RESET: always `OK` (R210). -/
def resetCommand (s : State) : Result := finish s.resetAll
/-- LOAD (R212): a too large image changes nothing (R213). -/
def loadCommand (bytes : List Byte) (s : State) : Result :=
  if programMax < bytes.length then raise (.programTooLarge bytes.length) s
  else finish (s.writeBytes programBase bytes)
/-- The state of a finished STEP: the command's byte is no longer there to read. -/
def endStep : Result → Result
  | .next t => .next { t with rndIn := none }
  | .fault f => .fault f
  | .refused r => .refused r
/-- STEP(rnd) (R71). -/
def stepCommand (rnd : Byte) (s : State) : Result := endStep (step { s with rndIn := some rnd })
/-- TICK (R192). -/
def tickCommand (s : State) : Result := finish ((s.setDt (countDown s.dt)).setSt (countDown s.st))
/-- SET_KEYS (R195). -/
def setKeysCommand (k : Vector Bool 16) (s : State) : Result := finish (s.setKeys k)
/-- CLEAR_REDRAW (R196). -/
def clearRedrawCommand (s : State) : Result := finish (s.setNr false)

/-- One command (R190). -/
def command (c : Command) (s : State) : Result :=
  match c with
  | .reset => resetCommand s
  | .load bytes => loadCommand bytes s
  | .step rnd => stepCommand rnd s
  | .tick => tickCommand s
  | .setKeys k => setKeysCommand k s
  | .clearRedraw => clearRedrawCommand s

/-- A schedule of commands, one after the other (R191); a status does not end it (R186). -/
def runCommands : List Command → State → Result
  | [], s => .next s
  | c :: cs, s =>
    match command c s with
    | .next t => runCommands cs t
    | .fault f => .fault f
    | .refused r => .refused r

/-- The tone output, `ST > 0` (R194). -/
def State.toneOn (s : State) : Bool := decide (0 < s.st.toNat)

/-- The number of a status (R180); a label no claim should depend on (92_eei_decisions.md D2). -/
def Status.code : Status → Nat
  | .ok => 0
  | .unknownOpcode _ => 1
  | .stackOverflow => 2
  | .stackUnderflow => 3
  | .addressOutOfRange _ => 4
  | .writeProtected _ => 5
  | .invalidKeyIndex _ => 6
  | .programTooLarge _ => 7

end Sys2Proof.Machine
end

