-- ==== Sys2Proof/Safety.lean ====
section
/-! DEFINITION. The terms claims are stated in: a run without a status other than `OK` (60_exceptions.md
R187), the invariant (10_state.md R41), the reset values (R40), a parked state (70_reset_and_hazards.md
R221), what is kept from one state to another, and the spec's tables of which instruction touches what. -/

namespace Sys2Proof.Machine

/-! ### Runs and states -/

/-- No status other than `OK` was reported so far: the premise R187 gives claims. -/
def State.clean (s : State) : Prop := s.faultMark = none

/-- The word at `a`, big-endian (20_memory.md R52). -/
def State.wordAt (s : State) (a : Nat) : Word := wordOfBytes (s.readByte a) (s.readByte (a + 1))

/-- The state is parked: a `1NNN` jump to itself at `PC` (R221). -/
def State.parked (s : State) : Prop :=
  s.pc.toNat ≤ 0xFFE ∧ s.wordAt s.pc.toNat = (0x1000#16 ||| s.pc)

/-- R41, with what makes it inductive: memory in canonical form, the bytes below 0x200 at their reset
values (R35), `PC` at most 0x10FE (R27), and every stack slot at most 0x1000, the largest return address
a fetched `2NNN` can push (DEDUCED from R56 and R112). `SP` is at most 16 by its type. -/
def State.Inv (s : State) : Prop :=
  Memory.wf s.cfg.font s.mem ∧
  (∀ a, a < 0x200 → s.readByte a = Memory.unlisted s.cfg.font a) ∧
  s.pc.toNat ≤ 0x10FE ∧
  ∀ j, (s.slot j).toNat ≤ 0x1000

/-- Every element at its reset value (R40), memory with the font of the configuration (R36). -/
def State.AtResetValues (s : State) : Prop :=
  (∀ (a : Nat) (h : a < 80), s.readByte a = s.cfg.font[a]) ∧
  (∀ a, 0x50 ≤ a → a ≤ 0xFFF → s.readByte a = 0#8) ∧
  (∀ r, s.getV r = 0#8) ∧ s.i = 0#16 ∧ s.pc = 0x200#16 ∧
  (∀ j, s.slot j = 0#16) ∧ s.sp = 0 ∧ s.dt = 0#8 ∧ s.st = 0#8 ∧
  (∀ k, s.key k = false) ∧ (∀ p, s.fb.pixel p = false) ∧ s.nr = false

/-! ### What is kept -/

/-- The parts of the state a claim says are unchanged. -/
inductive Part where
  | regs | index | pc | stack | delay | sound | keys | screen | redraw | memory | config | mark | random
deriving DecidableEq, Repr

/-- `t` has the part as `s` has it, read through the accessors. -/
def Keeps (s t : State) : Part → Prop
  | .regs => ∀ r, t.getV r = s.getV r
  | .index => t.i = s.i
  | .pc => t.pc = s.pc
  | .stack => t.sp = s.sp ∧ ∀ j, t.slot j = s.slot j
  | .delay => t.dt = s.dt
  | .sound => t.st = s.st
  | .keys => ∀ k, t.key k = s.key k
  | .screen => ∀ p, t.fb.pixel p = s.fb.pixel p
  | .redraw => t.nr = s.nr
  | .memory => ∀ a, t.readByte a = s.readByte a
  | .config => t.cfg = s.cfg
  | .mark => t.faultMark = s.faultMark
  | .random => t.rndIn = s.rndIn ∧ t.draws = s.draws

/-- Every part outside the list is kept. -/
def KeepsAllBut (changed : List Part) (s t : State) : Prop := ∀ q, q ∉ changed → Keeps s t q

/-- Every register outside the list is kept. -/
def KeepsRegsBut (changed : List Reg) (s t : State) : Prop := ∀ r, r ∉ changed → t.getV r = s.getV r

/-- Every byte outside the `n` bytes at `a` is kept. -/
def KeepsBytesBut (a n : Nat) (s t : State) : Prop :=
  ∀ b, b < a ∨ a + n ≤ b → t.readByte b = s.readByte b

/-- `t` is `s` after a raise of `e` in a rule (60_exceptions.md R184, R187): the status is reported, the
first such status sets the mark, and nothing else changes. -/
def RaisedFrom (e : Status) (s t : State) : Prop :=
  t.status = e ∧ (s.faultMark = none → t.faultMark = some e) ∧
  (s.faultMark ≠ none → t.faultMark = s.faultMark) ∧ KeepsAllBut [.mark] s t

/-! ### Encodings, sprites, and what an instruction may change -/

/-- The row of R78: a word whose bits under `mask` are `bits` is the instruction `f` gives for it. -/
def IsEncoding (mask bits : Word) (f : Word → Instr) : Prop :=
  ∀ w : Word, w &&& mask = bits → decode w = some (f w)

/-- The sprite pixel at (px, py) is the pixel `p` of the grid: under CLIP only if it is on the grid (R101),
under WRAP modulo 64 and 32 (R102). -/
def PlacedAt (edge : QuirkDrawEdge) (px py : Nat) (p : Fin 64 × Fin 32) : Prop :=
  match edge with
  | .clip => p.1.val = px ∧ p.2.val = py
  | .wrap => p.1.val = px % 64 ∧ p.2.val = py % 32

/-- `p` is in the set `P` of `DXYN` in state `s` (R101, R103): a set bit of row `r`, column `c`, with bit 7
leftmost, is placed there. -/
def SpriteCovers (s : State) (x y : Reg) (n : Nat) (p : Fin 64 × Fin 32) : Prop :=
  ∃ r c, r < n ∧ c < 8 ∧ (s.readByte (s.i.toNat + r)).getLsbD (7 - c) = true ∧
    PlacedAt s.cfg.drawEdge ((s.getV x).toNat % 64 + c) ((s.getV y).toNat % 32 + r) p

/-- The parts an instruction's own rule writes (10_state.md R22, R23, R31 to R34, R38; 20_memory.md R51). -/
def MayChange (i : Instr) : List Part :=
  match i with
  | .cls => [.screen, .redraw]
  | .ret | .call _ => [.pc, .stack]
  | .jp _ | .jpV0 _ | .seImm _ _ | .sneImm _ _ | .seReg _ _ | .sneReg _ _ | .skp _ | .sknp _ => [.pc]
  | .ldImm _ _ | .addImm _ _ | .ldReg _ _ | .orReg _ _ | .andReg _ _ | .xorReg _ _ | .addReg _ _
  | .sub _ _ | .shr _ _ | .subn _ _ | .shl _ _ | .ldVxDt _ => [.regs]
  | .rnd _ _ => [.regs, .random]
  | .ldI _ | .addIVx _ | .ldFVx _ => [.index]
  | .drw _ _ _ => [.regs, .screen, .redraw]
  | .ldVxK _ => [.regs, .pc]
  | .ldDtVx _ => [.delay]
  | .ldStVx _ => [.sound]
  | .ldBVx _ => [.memory]
  | .ldMemVx _ => [.memory, .index]
  | .ldVxMem _ => [.regs, .index]

/-! ### The table of R23: which registers an instruction reads and writes -/

/-- The registers the instruction may write (R22, R23). -/
def WritesReg (i : Instr) (r : Reg) : Prop :=
  match i with
  | .ldImm x _ | .addImm x _ | .ldReg x _ | .rnd x _ | .ldVxDt x | .ldVxK x => r = x
  | .orReg x _ | .andReg x _ | .xorReg x _ | .addReg x _ | .sub x _ | .shr x _ | .subn x _
  | .shl x _ => r = x ∨ r = regF
  | .drw _ _ _ => r = regF
  | .ldVxMem x => r ≤ x
  | .cls | .ret | .jp _ | .call _ | .seImm _ _ | .sneImm _ _ | .seReg _ _ | .sneReg _ _ | .ldI _
  | .jpV0 _ | .skp _ | .sknp _ | .ldDtVx _ | .ldStVx _ | .addIVx _ | .ldFVx _ | .ldBVx _
  | .ldMemVx _ => False

/-- The registers the instruction reads, under a configuration (R23). -/
def ReadsReg (c : Config) (i : Instr) (r : Reg) : Prop :=
  match i with
  | .seImm x _ | .sneImm x _ | .addImm x _ | .skp x | .sknp x | .ldDtVx x | .ldStVx x | .addIVx x
  | .ldFVx x | .ldBVx x => r = x
  | .seReg x y | .sneReg x y | .orReg x y | .andReg x y | .xorReg x y | .addReg x y | .sub x y
  | .subn x y | .drw x y _ => r = x ∨ r = y
  | .shr x y | .shl x y => r = x ∨ (c.shift = .fromY ∧ r = y)
  | .ldReg _ y => r = y
  | .jpV0 _ => r = 0
  | .ldMemVx x => r ≤ x
  | .cls | .ret | .jp _ | .call _ | .ldImm _ _ | .ldI _ | .rnd _ _ | .ldVxDt _ | .ldVxK _
  | .ldVxMem _ => False

/-! ### The table of R181: which instruction raises which status, and when -/

/-- The instruction raises `e` in `s` (R180, R181): the condition, and the information recorded. -/
def RaisesIn (i : Instr) (s : State) (e : Status) : Prop :=
  match i with
  | .ret => s.sp = 0 ∧ e = .stackUnderflow
  | .call _ => s.sp = 16 ∧ e = .stackOverflow
  | .drw _ _ n =>
    1 ≤ n ∧ 0x1000 ≤ s.i.toNat + n - 1 ∧ e = .addressOutOfRange (max s.i.toNat 0x1000)
  | .skp x | .sknp x => 0xF < (s.getV x).toNat ∧ e = .invalidKeyIndex (s.getV x)
  | .ldBVx _ =>
    (0x1000 ≤ s.i.toNat + 2 ∧ e = .addressOutOfRange (max s.i.toNat 0x1000)) ∨
    (s.i.toNat < 0x200 ∧ e = .writeProtected s.i.toNat)
  | .ldMemVx x =>
    (0x1000 ≤ s.i.toNat + x.val ∧ e = .addressOutOfRange (max s.i.toNat 0x1000)) ∨
    (s.i.toNat < 0x200 ∧ e = .writeProtected s.i.toNat)
  | .ldVxMem x => 0x1000 ≤ s.i.toNat + x.val ∧ e = .addressOutOfRange (max s.i.toNat 0x1000)
  | .cls | .jp _ | .seImm _ _ | .sneImm _ _ | .seReg _ _ | .ldImm _ _ | .addImm _ _ | .ldReg _ _
  | .orReg _ _ | .andReg _ _ | .xorReg _ _ | .addReg _ _ | .sub _ _ | .shr _ _ | .subn _ _ | .shl _ _
  | .sneReg _ _ | .ldI _ | .jpV0 _ | .rnd _ _ | .ldVxDt _ | .ldVxK _ | .ldDtVx _ | .ldStVx _
  | .addIVx _ | .ldFVx _ => False

/-! ### The table of R25: how an instruction leaves `PC` -/

/-- `PC` after the STEP of instruction `i` at address `a`, in the state `s` before it (R25). -/
def PcAfter (i : Instr) (s : State) (a pc : Word) : Prop :=
  match i with
  | .seImm x nn => pc = if s.getV x = nn then a + 4#16 else a + 2#16
  | .sneImm x nn => pc = if s.getV x ≠ nn then a + 4#16 else a + 2#16
  | .seReg x y => pc = if s.getV x = s.getV y then a + 4#16 else a + 2#16
  | .sneReg x y => pc = if s.getV x ≠ s.getV y then a + 4#16 else a + 2#16
  | .skp x => pc = if ∃ k : Fin 16, (s.getV x).toNat = k.val ∧ s.key k = true then a + 4#16 else a + 2#16
  | .sknp x => pc = if ∃ k : Fin 16, (s.getV x).toNat = k.val ∧ s.key k = false then a + 4#16 else a + 2#16
  | .jp nnn => pc.toNat = nnn.toNat
  | .call nnn => if s.sp = 16 then pc = a + 2#16 else pc.toNat = nnn.toNat
  | .ret => (s.sp = 0 → pc = a + 2#16) ∧ ∀ j : Fin 16, s.sp.val = j.val + 1 → pc = s.slot j
  | .jpV0 nnn => pc.toNat = (s.getV 0).toNat + nnn.toNat
  | .ldVxK _ => pc = if ∀ k, s.key k = false then a else a + 2#16
  | .cls | .ldImm _ _ | .addImm _ _ | .ldReg _ _ | .orReg _ _ | .andReg _ _ | .xorReg _ _
  | .addReg _ _ | .sub _ _ | .shr _ _ | .subn _ _ | .shl _ _ | .ldI _ | .rnd _ _ | .drw _ _ _
  | .ldVxDt _ | .ldDtVx _ | .ldStVx _ | .addIVx _ | .ldFVx _ | .ldBVx _ | .ldMemVx _
  | .ldVxMem _ => pc = a + 2#16

end Sys2Proof.Machine
end

