-- ==== Sys2Proof/Certificates/Slice0/Obligations.lean ====
section
/-! DEFINITION. The statements about the block. Each docstring names the rule of spec/ it formalises.
`exec i s` runs `i` in a state whose `PC` the fetch has already advanced (30_encoding.md R71). -/

open Sys2Proof Sys2Proof.Machine

/-! ### Reset, the cycle, decoding -/

/-- R40, R210: creation and RESET leave every element at the value of R40, and RESET reports `OK`. -/
def Obligations.ResetSetsEveryElement : Prop :=
  State.reset.AtResetValues ∧ (∀ c, (State.created c).AtResetValues ∧ (State.created c).cfg = c) ∧
  ∀ s, ∃ t, command .reset s = .next t ∧ t.status = .ok ∧ t.AtResetValues ∧ t.cfg = s.cfg

/-- R71, with the fetch of R56 and the illegal word of R72: a STEP fetches the big-endian word at `PC`,
advances `PC`, decodes and executes. -/
def Obligations.StepFetchesAdvancesDecodesExecutes : Prop :=
  (∀ s : State, 0x1000 ≤ s.pc.toNat + 1 →
    ∃ t, step s = .next t ∧ RaisedFrom (.addressOutOfRange (max s.pc.toNat 0x1000)) s t) ∧
  (∀ s : State, s.pc.toNat + 1 < 0x1000 → decode (s.wordAt s.pc.toNat) = none →
    ∃ t, step s = .next t ∧ RaisedFrom (.unknownOpcode (s.wordAt s.pc.toNat)) s.advance t) ∧
  (∀ (s : State) (i : Instr), s.pc.toNat + 1 < 0x1000 → decode (s.wordAt s.pc.toNat) = some i →
    step s = exec i s.advance) ∧
  (∀ s : State, s.advance.pc.toNat = (s.pc.toNat + 2) % 65536 ∧ KeepsAllBut [.pc] s s.advance ∧
    s.advance.status = s.status) ∧
  ∀ (s : State) (a : Nat), (s.wordAt a).toNat = (s.readByte a).toNat * 256 + (s.readByte (a + 1)).toNat

/-- A few words written out from R75 and R78 decode to the instructions they stand for. -/
def Obligations.SampleWordsDecode : Prop :=
  decode 0x00E0#16 = some .cls ∧ decode 0x2345#16 = some (.call 0x345#12) ∧
  decode 0x3A42#16 = some (.seImm 0xA 0x42#8) ∧ decode 0x8AB6#16 = some (.shr 0xA 0xB) ∧
  decode 0xA210#16 = some (.ldI 0x210#12) ∧ decode 0xDAB5#16 = some (.drw 0xA 0xB 5) ∧
  decode 0xF50A#16 = some (.ldVxK 5) ∧ decode 0x5121#16 = none ∧ decode 0x0000#16 = none

/-- Decoding what the encoder writes gives the instruction back, for every well-formed instruction. -/
def Obligations.DecodeOfEncodeIsIdentity : Prop :=
  ∀ i : Instr, WellFormed i → decode (encode i) = some i

/-- R83: every mnemonic stands for exactly one encoding: a word that decodes is the encoding of what it
decodes to, which is well-formed. -/
def Obligations.EncodeOfDecodeIsIdentity : Prop :=
  ∀ (w : Word) (i : Instr), decode w = some i → WellFormed i ∧ encode i = w

/-- R78: a word is an instruction exactly when it matches that instruction's row, and at most one row
matches. -/
def Obligations.MatchAndMaskSelectOneRow : Prop :=
  (∀ (w : Word) (i : Instr), decode w = some i → w &&& i.mask = i.matchWord) ∧
  (∀ (w : Word) (i : Instr), w &&& i.mask = i.matchWord →
    ∃ j, decode w = some j ∧ j.mask = i.mask ∧ j.matchWord = i.matchWord) ∧
  ∀ (w : Word) (i j : Instr), w &&& i.mask = i.matchWord → w &&& j.mask = j.matchWord →
    i.matchWord = j.matchWord ∧ i.mask = j.mask

/-- The illegal ranges of R80: exactly these words decode to nothing. -/
def Obligations.IllegalWordsAreTheListedOnes : Prop :=
  ∀ w : Word, decode w = none ↔
    (w.toNat < 0x1000 ∧ w.toNat ≠ 0x00E0 ∧ w.toNat ≠ 0x00EE) ∨
    ((w.toNat / 0x1000 = 0x5 ∨ w.toNat / 0x1000 = 0x9) ∧ w.toNat % 16 ≠ 0) ∨
    (w.toNat / 0x1000 = 0x8 ∧ w.toNat % 16 ∈ [0x8, 0x9, 0xA, 0xB, 0xC, 0xD, 0xF]) ∨
    (w.toNat / 0x1000 = 0xE ∧ w.toNat % 256 ∉ [0x9E, 0xA1]) ∨
    (w.toNat / 0x1000 = 0xF ∧
      w.toNat % 256 ∉ [0x07, 0x0A, 0x15, 0x18, 0x1E, 0x29, 0x33, 0x55, 0x65])

/-! ### Display -/

/-- R100, `00E0`. -/
def Obligations.ClsClearsEveryPixelAndSetsRedraw : Prop :=
  IsEncoding 0xFFFF#16 0x00E0#16 (fun _ => .cls) ∧
  ∀ s, ∃ t, exec .cls s = .next t ∧ t.status = .ok ∧ (∀ p, t.fb.pixel p = false) ∧ t.nr = true ∧
    KeepsAllBut [.screen, .redraw] s t

/-- R101 to R103, `DXYN` under both edge quirks: exactly the covered pixels flip, VF is the collision, and
an address past memory raises with no effect. (The rule's remark on drawing twice is a statement of its
own, with the premise it needs: log entry 16.) -/
def Obligations.DrwFlipsSpritePixelsAndSetsCollision : Prop :=
  IsEncoding 0xF000#16 0xD000#16 (fun w => .drw (fieldX w) (fieldY w) (fieldN w).toNat) ∧
  (∀ s x y n, n ≤ 15 → n = 0 ∨ s.i.toNat + n ≤ 0x1000 →
    ∃ t, exec (.drw x y n) s = .next t ∧ t.status = .ok ∧
      (∀ p, SpriteCovers s x y n p → t.fb.pixel p = !s.fb.pixel p) ∧
      (∀ p, ¬ SpriteCovers s x y n p → t.fb.pixel p = s.fb.pixel p) ∧
      ((∃ p, SpriteCovers s x y n p ∧ s.fb.pixel p = true) → t.getV regF = 1#8) ∧
      ((¬ ∃ p, SpriteCovers s x y n p ∧ s.fb.pixel p = true) → t.getV regF = 0#8) ∧
      t.nr = true ∧ KeepsRegsBut [regF] s t ∧ KeepsAllBut [.regs, .screen, .redraw] s t) ∧
  ∀ s x y n, 1 ≤ n → 0x1000 < s.i.toNat + n →
    ∃ t, exec (.drw x y n) s = .next t ∧ RaisedFrom (.addressOutOfRange (max s.i.toNat 0x1000)) s t

/-- From the pseudocode of R101: two draws of one sprite at one start position (also where x or y is 0xF
and the first draw leaves VF at that position). The second restores the framebuffer, as R101 and V-E5 say.
The clause on the second VF is the model's choice (DEDUCED, log entry 16): the sentence of R101 and V-E5 on
it (1 exactly when the sprite has a visible set bit) contradicts the pseudocode, which gives 1 exactly when
the first draw turned some pixel on. -/
def Obligations.DrwTwiceRestoresFramebuffer : Prop :=
  ∀ s t u x y n, n ≤ 15 → exec (.drw x y n) s = .next t → t.status = .ok →
    (t.getV x).toNat % 64 = (s.getV x).toNat % 64 → (t.getV y).toNat % 32 = (s.getV y).toNat % 32 →
    exec (.drw x y n) t = .next u →
    u.status = .ok ∧ (∀ p, u.fb.pixel p = s.fb.pixel p) ∧
    (u.getV regF = 1#8 ↔ ∃ p, SpriteCovers s x y n p ∧ s.fb.pixel p = false)

/-! ### Control transfer -/

/-- R110, `00EE`. -/
def Obligations.RetPopsNewestEntryIntoPc : Prop :=
  IsEncoding 0xFFFF#16 0x00EE#16 (fun _ => .ret) ∧
  (∀ (s : State) (j : Fin 16), s.sp.val = j.val + 1 →
    ∃ t, exec .ret s = .next t ∧ t.status = .ok ∧ t.pc = s.slot j ∧ t.sp.val = j.val ∧
      (∀ k, t.slot k = s.slot k) ∧ KeepsAllBut [.pc, .stack] s t) ∧
  ∀ s : State, s.sp = 0 → ∃ t, exec .ret s = .next t ∧ RaisedFrom .stackUnderflow s t

/-- R111, `1NNN`. -/
def Obligations.JpLoadsPc : Prop :=
  IsEncoding 0xF000#16 0x1000#16 (fun w => .jp (fieldNNN w)) ∧
  ∀ nnn s, ∃ t, exec (.jp nnn) s = .next t ∧ t.status = .ok ∧ t.pc.toNat = nnn.toNat ∧
    KeepsAllBut [.pc] s t

/-- R112, `2NNN`: the pushed address is the advanced `PC`. -/
def Obligations.CallPushesAdvancedPcAndJumps : Prop :=
  IsEncoding 0xF000#16 0x2000#16 (fun w => .call (fieldNNN w)) ∧
  (∀ nnn (s : State) (j : Fin 16), s.sp.val = j.val →
    ∃ t, exec (.call nnn) s = .next t ∧ t.status = .ok ∧ t.pc.toNat = nnn.toNat ∧
      t.slot j = s.pc ∧ t.sp.val = j.val + 1 ∧ (∀ k, k ≠ j → t.slot k = s.slot k) ∧
      KeepsAllBut [.pc, .stack] s t) ∧
  ∀ nnn (s : State), s.sp = 16 → ∃ t, exec (.call nnn) s = .next t ∧ RaisedFrom .stackOverflow s t

/-- R113, `BNNN`: always V0, and the sum is not reduced to 12 bits. -/
def Obligations.JpV0AddsV0 : Prop :=
  IsEncoding 0xF000#16 0xB000#16 (fun w => .jpV0 (fieldNNN w)) ∧
  ∀ nnn s, ∃ t, exec (.jpV0 nnn) s = .next t ∧ t.status = .ok ∧
    t.pc.toNat = (s.getV 0).toNat + nnn.toNat ∧ KeepsAllBut [.pc] s t

/-! ### Skips -/

/-- R121, R122, `3XNN` and `4XNN`. -/
def Obligations.SkipsComparingImmediate : Prop :=
  IsEncoding 0xF000#16 0x3000#16 (fun w => .seImm (fieldX w) (fieldNN w)) ∧
  IsEncoding 0xF000#16 0x4000#16 (fun w => .sneImm (fieldX w) (fieldNN w)) ∧
  (∀ x nn s, ∃ t, exec (.seImm x nn) s = .next t ∧ t.status = .ok ∧
    (s.getV x = nn → t.pc.toNat = (s.pc.toNat + 2) % 65536) ∧
    (s.getV x ≠ nn → t.pc = s.pc) ∧ KeepsAllBut [.pc] s t) ∧
  ∀ x nn s, ∃ t, exec (.sneImm x nn) s = .next t ∧ t.status = .ok ∧
    (s.getV x ≠ nn → t.pc.toNat = (s.pc.toNat + 2) % 65536) ∧
    (s.getV x = nn → t.pc = s.pc) ∧ KeepsAllBut [.pc] s t

/-- R123, R124, `5XY0` and `9XY0`; a non-zero low nibble is no instruction. -/
def Obligations.SkipsComparingRegisters : Prop :=
  IsEncoding 0xF00F#16 0x5000#16 (fun w => .seReg (fieldX w) (fieldY w)) ∧
  IsEncoding 0xF00F#16 0x9000#16 (fun w => .sneReg (fieldX w) (fieldY w)) ∧
  (∀ w : Word, (w &&& 0xF000#16 = 0x5000#16 ∨ w &&& 0xF000#16 = 0x9000#16) → w &&& 0xF#16 ≠ 0#16 →
    decode w = none) ∧
  (∀ x y s, ∃ t, exec (.seReg x y) s = .next t ∧ t.status = .ok ∧
    (s.getV x = s.getV y → t.pc.toNat = (s.pc.toNat + 2) % 65536) ∧
    (s.getV x ≠ s.getV y → t.pc = s.pc) ∧ KeepsAllBut [.pc] s t) ∧
  ∀ x y s, ∃ t, exec (.sneReg x y) s = .next t ∧ t.status = .ok ∧
    (s.getV x ≠ s.getV y → t.pc.toNat = (s.pc.toNat + 2) % 65536) ∧
    (s.getV x = s.getV y → t.pc = s.pc) ∧ KeepsAllBut [.pc] s t

/-- R125 to R127, `EX9E` and `EXA1`; above 0xF no key exists. -/
def Obligations.SkipsOnKey : Prop :=
  IsEncoding 0xF0FF#16 0xE09E#16 (fun w => .skp (fieldX w)) ∧
  IsEncoding 0xF0FF#16 0xE0A1#16 (fun w => .sknp (fieldX w)) ∧
  (∀ x (s : State) (k : Fin 16), (s.getV x).toNat = k.val →
    ∃ t, exec (.skp x) s = .next t ∧ t.status = .ok ∧
      (s.key k = true → t.pc.toNat = (s.pc.toNat + 2) % 65536) ∧
      (s.key k = false → t.pc = s.pc) ∧ KeepsAllBut [.pc] s t) ∧
  (∀ x (s : State) (k : Fin 16), (s.getV x).toNat = k.val →
    ∃ t, exec (.sknp x) s = .next t ∧ t.status = .ok ∧
      (s.key k = false → t.pc.toNat = (s.pc.toNat + 2) % 65536) ∧
      (s.key k = true → t.pc = s.pc) ∧ KeepsAllBut [.pc] s t) ∧
  (∀ x (s : State), 0xF < (s.getV x).toNat →
    ∃ t, exec (.skp x) s = .next t ∧ RaisedFrom (.invalidKeyIndex (s.getV x)) s t) ∧
  ∀ x (s : State), 0xF < (s.getV x).toNat →
    ∃ t, exec (.sknp x) s = .next t ∧ RaisedFrom (.invalidKeyIndex (s.getV x)) s t

/-! ### Register loads and arithmetic -/

/-- R132, R133, R134: `6XNN`, `7XNN`, `8XY0` write Vx and nothing else, VF included unless x = 0xF. -/
def Obligations.LoadsAndImmediateAddWriteOnlyVx : Prop :=
  IsEncoding 0xF000#16 0x6000#16 (fun w => .ldImm (fieldX w) (fieldNN w)) ∧
  IsEncoding 0xF000#16 0x7000#16 (fun w => .addImm (fieldX w) (fieldNN w)) ∧
  IsEncoding 0xF00F#16 0x8000#16 (fun w => .ldReg (fieldX w) (fieldY w)) ∧
  (∀ x nn s, ∃ t, exec (.ldImm x nn) s = .next t ∧ t.status = .ok ∧ t.getV x = nn ∧
    KeepsRegsBut [x] s t ∧ KeepsAllBut [.regs] s t) ∧
  (∀ x nn s, ∃ t, exec (.addImm x nn) s = .next t ∧ t.status = .ok ∧
    (t.getV x).toNat = ((s.getV x).toNat + nn.toNat) % 256 ∧
    KeepsRegsBut [x] s t ∧ KeepsAllBut [.regs] s t) ∧
  ∀ x y s, ∃ t, exec (.ldReg x y) s = .next t ∧ t.status = .ok ∧ t.getV x = s.getV y ∧
    KeepsRegsBut [x] s t ∧ KeepsAllBut [.regs] s t

/-- R135, R136, R137: `8XY1`, `8XY2`, `8XY3` write the bitwise result to Vx, bit by bit, then 0 to VF. -/
def Obligations.LogicWritesVxThenClearsVf : Prop :=
  IsEncoding 0xF00F#16 0x8001#16 (fun w => .orReg (fieldX w) (fieldY w)) ∧
  IsEncoding 0xF00F#16 0x8002#16 (fun w => .andReg (fieldX w) (fieldY w)) ∧
  IsEncoding 0xF00F#16 0x8003#16 (fun w => .xorReg (fieldX w) (fieldY w)) ∧
  (∀ x y s, ∃ t, exec (.orReg x y) s = .next t ∧ t.status = .ok ∧ t.getV regF = 0#8 ∧
    (x ≠ regF → ∀ b < 8, (t.getV x).getLsbD b = ((s.getV x).getLsbD b || (s.getV y).getLsbD b)) ∧
    KeepsRegsBut [x, regF] s t ∧ KeepsAllBut [.regs] s t) ∧
  (∀ x y s, ∃ t, exec (.andReg x y) s = .next t ∧ t.status = .ok ∧ t.getV regF = 0#8 ∧
    (x ≠ regF → ∀ b < 8, (t.getV x).getLsbD b = ((s.getV x).getLsbD b && (s.getV y).getLsbD b)) ∧
    KeepsRegsBut [x, regF] s t ∧ KeepsAllBut [.regs] s t) ∧
  ∀ x y s, ∃ t, exec (.xorReg x y) s = .next t ∧ t.status = .ok ∧ t.getV regF = 0#8 ∧
    (x ≠ regF → ∀ b < 8, (t.getV x).getLsbD b = ((s.getV x).getLsbD b ^^ (s.getV y).getLsbD b)) ∧
    KeepsRegsBut [x, regF] s t ∧ KeepsAllBut [.regs] s t

/-- R138, `8XY4`: the sum modulo 256 to Vx, then the carry to VF, which wins when x = 0xF (R131). -/
def Obligations.AddRegWritesSumThenCarry : Prop :=
  IsEncoding 0xF00F#16 0x8004#16 (fun w => .addReg (fieldX w) (fieldY w)) ∧
  ∀ x y s, ∃ t, exec (.addReg x y) s = .next t ∧ t.status = .ok ∧
    (x ≠ regF → (t.getV x).toNat = ((s.getV x).toNat + (s.getV y).toNat) % 256) ∧
    (255 < (s.getV x).toNat + (s.getV y).toNat → t.getV regF = 1#8) ∧
    ((s.getV x).toNat + (s.getV y).toNat ≤ 255 → t.getV regF = 0#8) ∧
    KeepsRegsBut [x, regF] s t ∧ KeepsAllBut [.regs] s t

/-- R139, R141, `8XY5` and `8XY7`: the difference modulo 256 to Vx, then no-borrow to VF. -/
def Obligations.SubtractionsWriteDifferenceThenNoBorrow : Prop :=
  IsEncoding 0xF00F#16 0x8005#16 (fun w => .sub (fieldX w) (fieldY w)) ∧
  IsEncoding 0xF00F#16 0x8007#16 (fun w => .subn (fieldX w) (fieldY w)) ∧
  (∀ x y s, ∃ t, exec (.sub x y) s = .next t ∧ t.status = .ok ∧
    (x ≠ regF → ((t.getV x).toNat : Int) = ((s.getV x).toNat - (s.getV y).toNat : Int) % 256) ∧
    ((s.getV y).toNat ≤ (s.getV x).toNat → t.getV regF = 1#8) ∧
    ((s.getV x).toNat < (s.getV y).toNat → t.getV regF = 0#8) ∧
    KeepsRegsBut [x, regF] s t ∧ KeepsAllBut [.regs] s t) ∧
  ∀ x y s, ∃ t, exec (.subn x y) s = .next t ∧ t.status = .ok ∧
    (x ≠ regF → ((t.getV x).toNat : Int) = ((s.getV y).toNat - (s.getV x).toNat : Int) % 256) ∧
    ((s.getV x).toNat ≤ (s.getV y).toNat → t.getV regF = 1#8) ∧
    ((s.getV y).toNat < (s.getV x).toNat → t.getV regF = 0#8) ∧
    KeepsRegsBut [x, regF] s t ∧ KeepsAllBut [.regs] s t

/-- R140, R142, R144, `8XY6` and `8XYE` under both shift quirks: the shifted value comes from Vy or Vx, the
flag always from the old Vx. -/
def Obligations.ShiftsWriteResultThenOldBitOfVx : Prop :=
  IsEncoding 0xF00F#16 0x8006#16 (fun w => .shr (fieldX w) (fieldY w)) ∧
  IsEncoding 0xF00F#16 0x800E#16 (fun w => .shl (fieldX w) (fieldY w)) ∧
  (∀ x y s, ∃ t, exec (.shr x y) s = .next t ∧ t.status = .ok ∧
    (x ≠ regF → s.cfg.shift = .fromY → (t.getV x).toNat = (s.getV y).toNat / 2) ∧
    (x ≠ regF → s.cfg.shift = .inPlace → (t.getV x).toNat = (s.getV x).toNat / 2) ∧
    (t.getV regF).toNat = (s.getV x).toNat % 2 ∧
    KeepsRegsBut [x, regF] s t ∧ KeepsAllBut [.regs] s t) ∧
  ∀ x y s, ∃ t, exec (.shl x y) s = .next t ∧ t.status = .ok ∧
    (x ≠ regF → s.cfg.shift = .fromY → (t.getV x).toNat = (s.getV y).toNat * 2 % 256) ∧
    (x ≠ regF → s.cfg.shift = .inPlace → (t.getV x).toNat = (s.getV x).toNat * 2 % 256) ∧
    (t.getV regF).toNat = (s.getV x).toNat / 128 ∧
    KeepsRegsBut [x, regF] s t ∧ KeepsAllBut [.regs] s t

/-- `CXNN` where the STEP's byte is named (R143). That the byte stands in `rndIn`, is used up and leaves the
count of draws alone is the model's own form (DESIGN CHOICE, log entry 5). -/
def Obligations.RndMasksTheStepsByte : Prop :=
  IsEncoding 0xF000#16 0xC000#16 (fun w => .rnd (fieldX w) (fieldNN w)) ∧
  ∀ x nn (s : State) r, s.rndIn = some r → ∃ t, exec (.rnd x nn) s = .next t ∧ t.status = .ok ∧
    (∀ b < 8, (t.getV x).getLsbD b = (r.getLsbD b && nn.getLsbD b)) ∧
    t.rndIn = none ∧ t.draws = s.draws ∧ KeepsRegsBut [x] s t ∧ KeepsAllBut [.regs, .random] s t

/-- The model's own form of R8's free draw (DESIGN CHOICE, log entry 5): where no command has named the
byte, `CXNN` takes the next free byte, whatever it is. -/
def Obligations.RndDrawsAFreeByteWhereNoneIsNamed : Prop :=
  ∀ x nn (s : State), s.rndIn = none → ∃ t, exec (.rnd x nn) s = .next t ∧ t.status = .ok ∧
    (∀ b < 8, (t.getV x).getLsbD b = ((Config.freeRnd s.draws).getLsbD b && nn.getLsbD b)) ∧
    t.rndIn = none ∧ t.draws = s.draws + 1 ∧ KeepsRegsBut [x] s t ∧ KeepsAllBut [.regs, .random] s t

/-! ### Index register, loads and stores -/

/-- R150, R151, R152: `ANNN`, `FX1E`, `FX29` write `I` and nothing else. -/
def Obligations.IndexInstructionsWriteOnlyI : Prop :=
  IsEncoding 0xF000#16 0xA000#16 (fun w => .ldI (fieldNNN w)) ∧
  IsEncoding 0xF0FF#16 0xF01E#16 (fun w => .addIVx (fieldX w)) ∧
  IsEncoding 0xF0FF#16 0xF029#16 (fun w => .ldFVx (fieldX w)) ∧
  (∀ nnn s, ∃ t, exec (.ldI nnn) s = .next t ∧ t.status = .ok ∧ t.i.toNat = nnn.toNat ∧
    KeepsAllBut [.index] s t) ∧
  (∀ x s, ∃ t, exec (.addIVx x) s = .next t ∧ t.status = .ok ∧
    t.i.toNat = (s.i.toNat + (s.getV x).toNat) % 65536 ∧ KeepsAllBut [.index] s t) ∧
  ∀ x s, ∃ t, exec (.ldFVx x) s = .next t ∧ t.status = .ok ∧
    t.i.toNat = (s.getV x).toNat * 5 ∧ KeepsAllBut [.index] s t

/-- R36 and R152: for a digit, `FX29` points `I` at the digit's five glyph bytes. -/
def Obligations.LdFPointsAtGlyph : Prop :=
  ∀ (x : Reg) (s : State) (d : Fin 16), s.Inv → (s.getV x).toNat = d.val →
    ∃ t, exec (.ldFVx x) s = .next t ∧
      ∀ k : Fin 5, t.readByte (t.i.toNat + k.val) = s.cfg.font[5 * d.val + k.val]

/-- R153, `FX33`. -/
def Obligations.LdBStoresDecimalDigits : Prop :=
  IsEncoding 0xF0FF#16 0xF033#16 (fun w => .ldBVx (fieldX w)) ∧
  (∀ x (s : State), 0x200 ≤ s.i.toNat → s.i.toNat + 2 < 0x1000 →
    ∃ t, exec (.ldBVx x) s = .next t ∧ t.status = .ok ∧
      (t.readByte s.i.toNat).toNat = (s.getV x).toNat / 100 ∧
      (t.readByte (s.i.toNat + 1)).toNat = (s.getV x).toNat / 10 % 10 ∧
      (t.readByte (s.i.toNat + 2)).toNat = (s.getV x).toNat % 10 ∧
      KeepsBytesBut s.i.toNat 3 s t ∧ KeepsAllBut [.memory] s t) ∧
  (∀ x (s : State), 0x1000 ≤ s.i.toNat + 2 →
    ∃ t, exec (.ldBVx x) s = .next t ∧ RaisedFrom (.addressOutOfRange (max s.i.toNat 0x1000)) s t) ∧
  ∀ x (s : State), s.i.toNat < 0x200 →
    ∃ t, exec (.ldBVx x) s = .next t ∧ RaisedFrom (.writeProtected s.i.toNat) s t

/-- R154 and R156, `FX55` under both index quirks. -/
def Obligations.LdMemStoresRegisterBlock : Prop :=
  IsEncoding 0xF0FF#16 0xF055#16 (fun w => .ldMemVx (fieldX w)) ∧
  (∀ (x : Reg) (s : State), 0x200 ≤ s.i.toNat → s.i.toNat + x.val < 0x1000 →
    ∃ t, exec (.ldMemVx x) s = .next t ∧ t.status = .ok ∧
      (∀ k : Reg, k ≤ x → t.readByte (s.i.toNat + k.val) = s.getV k) ∧
      KeepsBytesBut s.i.toNat (x.val + 1) s t ∧
      (s.cfg.loadStoreI = .unchanged → t.i = s.i) ∧
      (s.cfg.loadStoreI = .increment → t.i.toNat = (s.i.toNat + x.val + 1) % 65536) ∧
      KeepsAllBut [.memory, .index] s t) ∧
  (∀ (x : Reg) (s : State), 0x1000 ≤ s.i.toNat + x.val →
    ∃ t, exec (.ldMemVx x) s = .next t ∧ RaisedFrom (.addressOutOfRange (max s.i.toNat 0x1000)) s t) ∧
  ∀ (x : Reg) (s : State), s.i.toNat < 0x200 →
    ∃ t, exec (.ldMemVx x) s = .next t ∧ RaisedFrom (.writeProtected s.i.toNat) s t

/-- R155 and R156, `FX65` under both index quirks. -/
def Obligations.LdVxLoadsRegisterBlock : Prop :=
  IsEncoding 0xF0FF#16 0xF065#16 (fun w => .ldVxMem (fieldX w)) ∧
  (∀ (x : Reg) (s : State), s.i.toNat + x.val < 0x1000 →
    ∃ t, exec (.ldVxMem x) s = .next t ∧ t.status = .ok ∧
      (∀ k : Reg, k ≤ x → t.getV k = s.readByte (s.i.toNat + k.val)) ∧
      (∀ k : Reg, x < k → t.getV k = s.getV k) ∧
      (s.cfg.loadStoreI = .unchanged → t.i = s.i) ∧
      (s.cfg.loadStoreI = .increment → t.i.toNat = (s.i.toNat + x.val + 1) % 65536) ∧
      KeepsAllBut [.regs, .index] s t) ∧
  ∀ (x : Reg) (s : State), 0x1000 ≤ s.i.toNat + x.val →
    ∃ t, exec (.ldVxMem x) s = .next t ∧ RaisedFrom (.addressOutOfRange (max s.i.toNat 0x1000)) s t

/-- R156: under `I_INCREMENT`, `I` ends just past the last byte moved, and only when the move is done. -/
def Obligations.IncrementQuirkMovesIndexPastTheBlock : Prop :=
  ∀ (x : Reg) (i : Instr) (s t : State), s.cfg.loadStoreI = .increment → i = .ldMemVx x ∨ i = .ldVxMem x →
    exec i s = .next t →
    (t.status = .ok → t.i.toNat = (s.i.toNat + x.val + 1) % 65536) ∧ (t.status ≠ .ok → t.i = s.i)

/-- V-E3 (95_test_vectors.md), from R154 and R155: what `FX55` stored, `FX65` at the same `I` brings back,
whatever was written to the registers between. -/
def Obligations.StoreThenLoadRestoresRegisters : Prop :=
  ∀ (s t u : State) (x : Reg), s.cfg.loadStoreI = .unchanged → 0x200 ≤ s.i.toNat →
    s.i.toNat + x.val ≤ 0xFFF → exec (.ldMemVx x) s = .next t → KeepsAllBut [.regs] t u →
    ∃ w, exec (.ldVxMem x) u = .next w ∧ w.status = .ok ∧ w.i = s.i ∧
      (∀ k, k ≤ x → w.getV k = s.getV k) ∧ ∀ k, x < k → w.getV k = u.getV k

/-- R62: bytes `FX55` stored are what the next fetch there reads. -/
def Obligations.StoredBytesAreFetched : Prop :=
  ∀ (s t : State) (x k l : Reg) (a : Word), exec (.ldMemVx x) s = .next t → t.status = .ok →
    l ≤ x → l.val = k.val + 1 → a.toNat = s.i.toNat + k.val →
    fetch (t.setPc a) = .ok (wordOfBytes (s.getV k) (s.getV l))

/-! ### Timers and keys -/

/-- R170, R172, R173: `FX07`, `FX15`, `FX18`. -/
def Obligations.TimerInstructionsMoveBytes : Prop :=
  IsEncoding 0xF0FF#16 0xF007#16 (fun w => .ldVxDt (fieldX w)) ∧
  IsEncoding 0xF0FF#16 0xF015#16 (fun w => .ldDtVx (fieldX w)) ∧
  IsEncoding 0xF0FF#16 0xF018#16 (fun w => .ldStVx (fieldX w)) ∧
  (∀ x s, ∃ t, exec (.ldVxDt x) s = .next t ∧ t.status = .ok ∧ t.getV x = s.dt ∧
    KeepsRegsBut [x] s t ∧ KeepsAllBut [.regs] s t) ∧
  (∀ x s, ∃ t, exec (.ldDtVx x) s = .next t ∧ t.status = .ok ∧ t.dt = s.getV x ∧
    KeepsAllBut [.delay] s t) ∧
  ∀ x s, ∃ t, exec (.ldStVx x) s = .next t ∧ t.status = .ok ∧ t.st = s.getV x ∧
    KeepsAllBut [.sound] s t

/-- R171, `FX0A`: the smallest set key, or `PC` back by 2; `OK` in both cases. -/
def Obligations.LdKTakesLowestKeyOrWaits : Prop :=
  IsEncoding 0xF0FF#16 0xF00A#16 (fun w => .ldVxK (fieldX w)) ∧
  (∀ x (s : State) (k : Fin 16), s.key k = true → (∀ j, j < k → s.key j = false) →
    ∃ t, exec (.ldVxK x) s = .next t ∧ t.status = .ok ∧ (t.getV x).toNat = k.val ∧
      KeepsRegsBut [x] s t ∧ KeepsAllBut [.regs] s t) ∧
  ∀ x (s : State), (∀ k, s.key k = false) →
    ∃ t, exec (.ldVxK x) s = .next t ∧ t.status = .ok ∧
      (t.pc.toNat : Int) = (s.pc.toNat - 2 : Int) % 65536 ∧ KeepsAllBut [.pc] s t

/-- R218: while `FX0A` waits, a STEP reports `OK` and leaves all state as it was. -/
def Obligations.WaitingStepMakesNoProgress : Prop :=
  ∀ (s : State) (x : Reg), s.pc.toNat + 1 < 0x1000 → decode (s.wordAt s.pc.toNat) = some (.ldVxK x) →
    (∀ k, s.key k = false) → ∃ t, step s = .next t ∧ t.status = .ok ∧ KeepsAllBut [] s t

/-! ### Host commands -/

/-- R192: TICK counts each timer down and stops at zero; a timer with value v reaches 0 after exactly v
TICKs; nothing else changes. -/
def Obligations.TicksCountBothTimersDown : Prop :=
  (∀ s, ∃ t, command .tick s = .next t ∧ t.status = .ok ∧
    t.dt.toNat = s.dt.toNat - 1 ∧ t.st.toNat = s.st.toNat - 1 ∧ KeepsAllBut [.delay, .sound] s t) ∧
  ∀ (n : Nat) (s : State), ∃ t, runCommands (List.replicate n .tick) s = .next t ∧
    t.dt.toNat = s.dt.toNat - n ∧ t.st.toNat = s.st.toNat - n ∧ KeepsAllBut [.delay, .sound] s t

/-- R212, R213: LOAD copies the image to 0x200 onward, or changes nothing when it is too large. -/
def Obligations.LoadCopiesImageOrChangesNothing : Prop :=
  (∀ (bytes : List Byte) (s : State), bytes.length ≤ 3584 →
    ∃ t, command (.load bytes) s = .next t ∧ t.status = .ok ∧
      (∀ (k : Nat) (h : k < bytes.length), t.readByte (0x200 + k) = bytes[k]) ∧
      KeepsBytesBut 0x200 bytes.length s t ∧ KeepsAllBut [.memory] s t) ∧
  ∀ (bytes : List Byte) (s : State), 3584 < bytes.length →
    ∃ t, command (.load bytes) s = .next t ∧ RaisedFrom (.programTooLarge bytes.length) s t

/-- R195 and R196: SET_KEYS writes all 16 flags, CLEAR_REDRAW clears `NR`; nothing else changes. -/
def Obligations.SetKeysAndClearRedrawWriteOnlyTheirs : Prop :=
  (∀ (k : Vector Bool 16) (s : State), ∃ t, command (.setKeys k) s = .next t ∧ t.status = .ok ∧
    (∀ j : Fin 16, t.key j = k[j]) ∧ KeepsAllBut [.keys] s t) ∧
  ∀ s, ∃ t, command .clearRedraw s = .next t ∧ t.status = .ok ∧ t.nr = false ∧ KeepsAllBut [.redraw] s t

/-- R8 and R143: no instruction but `CXNN` reads the byte a STEP carries. -/
def Obligations.OnlyRndReadsTheStepsByte : Prop :=
  ∀ (s : State) (r r' : Byte), (∀ x nn, decode (s.wordAt s.pc.toNat) ≠ some (.rnd x nn)) →
    command (.step r) s = command (.step r') s

/-- A step whose byte is free is the STEP command with some byte (R8, R71; the model's form of the free
byte, log entry 5). -/
def Obligations.FreeStepIsAStepCommand : Prop :=
  ∀ (s t : State), s.rndIn = none → step s = .next t →
    ∃ r u, command (.step r) s = .next u ∧ u.status = t.status ∧ KeepsAllBut [.random] t u ∧
      u.rndIn = none

/-- R143 on the STEP command: `CXNN` writes the command's byte masked by nn to Vx. -/
def Obligations.RndStepMasksTheCommandsByte : Prop :=
  IsEncoding 0xF000#16 0xC000#16 (fun w => .rnd (fieldX w) (fieldNN w)) ∧
  ∀ (s : State) (x : Reg) (nn r : Byte), s.pc.toNat + 1 < 0x1000 →
    decode (s.wordAt s.pc.toNat) = some (.rnd x nn) →
    ∃ t, command (.step r) s = .next t ∧ t.status = .ok ∧
      (∀ b < 8, (t.getV x).getLsbD b = (r.getLsbD b && nn.getLsbD b)) ∧
      t.pc.toNat = s.pc.toNat + 2 ∧ KeepsRegsBut [x] s t ∧ KeepsAllBut [.regs, .pc, .random] s t

/-- The model's own form of the STEP command's input (DESIGN CHOICE, log entry 5): the command is `step` with
its byte in `rndIn`, which it clears. -/
def Obligations.StepCommandIsTheStepWithItsByte : Prop :=
  ∀ (s : State) (r : Byte), ∃ t, step { s with rndIn := some r } = .next t ∧
    command (.step r) s = .next { t with rndIn := none }

/-! ### The whole machine -/

/-- R187: every command has a next state, whatever it reports, and the fault mark is the first status other
than `OK`, which nothing clears. -/
def Obligations.EveryCommandGoesOnAndMarksFirstFault : Prop :=
  ∀ (c : Command) (s : State), ∃ t, command c s = .next t ∧
    (∀ e, s.faultMark = some e → t.faultMark = some e) ∧
    (s.faultMark = none → t.status = .ok → t.faultMark = none) ∧
    (s.faultMark = none → t.status ≠ .ok → t.faultMark = some t.status)

/-- R184: the state after a STEP that raises. -/
def Obligations.RaisingStepChangesOnlyPc : Prop :=
  ∀ s t : State, step s = .next t → t.status ≠ .ok →
    (0x1000 ≤ s.pc.toNat + 1 → RaisedFrom t.status s t) ∧
    (s.pc.toNat + 1 < 0x1000 → RaisedFrom t.status s.advance t)

/-- R181: which instruction raises which status, and when, the fetch and the illegal word included; no
other instruction raises anything. -/
def Obligations.StatusesAreTheTabledOnes : Prop :=
  (∀ (i : Instr) (s t : State) (e : Status), exec i s = .next t → e ≠ .ok →
    (t.status = e ↔ RaisesIn i s e)) ∧
  (∀ s t : State, 0x1000 ≤ s.pc.toNat + 1 → step s = .next t →
    t.status = .addressOutOfRange (max s.pc.toNat 0x1000)) ∧
  ∀ s t : State, s.pc.toNat + 1 < 0x1000 → decode (s.wordAt s.pc.toNat) = none → step s = .next t →
    t.status = .unknownOpcode (s.wordAt s.pc.toNat)

/-- R186: after an out-of-range fetch every further STEP raises the same status and changes nothing, and
no command but RESET changes `PC` outside a STEP. -/
def Obligations.FetchFaultRepeats : Prop :=
  (∀ (s : State) (n : Nat), 0x1000 ≤ s.pc.toNat + 1 →
    ∃ t, Sys2Proof.core.run (n + 1) s = .next t ∧
      RaisedFrom (.addressOutOfRange (max s.pc.toNat 0x1000)) s t) ∧
  ∀ (c : Command) (s t : State), c ≠ .reset → (∀ r, c ≠ .step r) → command c s = .next t → t.pc = s.pc

/-- R25: how each instruction leaves `PC`, from the instruction's address. -/
def Obligations.PcFollowsTheTable : Prop :=
  (∀ s t : State, 0x1000 ≤ s.pc.toNat + 1 → step s = .next t → t.pc = s.pc) ∧
  (∀ s t : State, s.pc.toNat + 1 < 0x1000 → decode (s.wordAt s.pc.toNat) = none → step s = .next t →
    t.pc = s.pc + 2#16) ∧
  ∀ (s t : State) (i : Instr), s.pc.toNat + 1 < 0x1000 → decode (s.wordAt s.pc.toNat) = some i →
    step s = .next t → PcAfter i s s.pc t.pc

/-- The "written by" columns of R38 and R51, with R32 and R37: an instruction changes only the parts its
own rule writes, whatever it reports; none writes the keys or the configuration; none clears `NR`. -/
def Obligations.InstructionsStayInTheirParts : Prop :=
  ∀ (i : Instr) (s t : State), exec i s = .next t →
    KeepsAllBut (.mark :: MayChange i) s t ∧ (t.nr = s.nr ∨ t.nr = true)

/-- R23, the "writes" column: no other register changes. -/
def Obligations.RegistersWrittenAreTheTabledOnes : Prop :=
  ∀ (i : Instr) (s t : State) (r : Reg), exec i s = .next t → ¬ WritesReg i r → t.getV r = s.getV r

/-- R23, the "reads" column, as noninterference: changing a register an instruction does not read changes
nothing of its outcome but that register, which is then either untouched or overwritten alike. -/
def Obligations.RegistersNotReadHaveNoInfluence : Prop :=
  ∀ (i : Instr) (s t : State) (r : Reg) (b : Byte), ¬ ReadsReg s.cfg i r → exec i s = .next t →
    ∃ u, exec i (s.setV r b) = .next u ∧ u.status = t.status ∧ KeepsAllBut [.regs] t u ∧
      KeepsRegsBut [r] t u ∧ (u.getV r = t.getV r ∨ (t.getV r = s.getV r ∧ u.getV r = b))

/-- R9: each quirk parameter reaches only the instructions that R9 names for it, and none reaches any
other instruction. -/
def Obligations.QuirksReachOnlyTheirInstructions : Prop :=
  ∀ (i : Instr) (s t : State) (c : Config), c.font = s.cfg.font →
    (∀ x y, i = .shr x y ∨ i = .shl x y → c.shift = s.cfg.shift) →
    (∀ x, i = .ldMemVx x ∨ i = .ldVxMem x → c.loadStoreI = s.cfg.loadStoreI) →
    (∀ x y n, i = .drw x y n → c.drawEdge = s.cfg.drawEdge) →
    exec i s = .next t → exec i { s with cfg := c } = .next { t with cfg := c }

/-- R30: no instruction can read a slot at or above `SP`. -/
def Obligations.StaleSlotsHaveNoInfluence : Prop :=
  ∀ (i : Instr) (s t : State) (other : Vector Word 16),
    (∀ j : Fin 16, j.val < s.sp.val → other[j] = s.slot j) → exec i s = .next t →
    ∃ other' : Vector Word 16, exec i { s with stack := other } = .next { t with stack := other' } ∧
      ∀ j : Fin 16, j.val < t.sp.val → other'[j] = t.slot j

/-- R29: a push then a pop gives the value pushed and the stack as it was below it. -/
def Obligations.PopReturnsThePushedEntry : Prop :=
  (∀ (s : State) (w : Word), s.sp.val < 16 → ∃ t u, s.push w = some t ∧ t.pop = some (w, u) ∧
    t.sp.val = s.sp.val + 1 ∧ u.sp = s.sp ∧ KeepsAllBut [.stack] s u ∧
    ∀ j : Fin 16, j.val ≠ s.sp.val → u.slot j = s.slot j) ∧
  (∀ (s : State) (w : Word), s.sp = 16 → s.push w = none) ∧
  ∀ s : State, s.sp = 0 → s.pop = none

/-- R35: instructions never write below 0x200, in any state. -/
def Obligations.BytesBelowProgramNeverChange : Prop :=
  ∀ s t : State, step s = .next t → ∀ a, a < 0x200 → t.readByte a = s.readByte a

/-- R221: a parked state is a fixed point of STEP, which reports `OK`. -/
def Obligations.ParkedStateIsAFixedPoint : Prop :=
  ∀ s : State, s.parked → ∃ t, step s = .next t ∧ t.status = .ok ∧ KeepsAllBut [] s t ∧ t.parked

/-- R215: from reset, `FX33` and `FX55` raise `WRITE_PROTECTED(0x000)`. -/
def Obligations.StoresAtResetAreWriteProtected : Prop :=
  ∀ (c : Config) (x : Reg),
    (∃ t, exec (.ldBVx x) (State.created c) = .next t ∧ RaisedFrom (.writeProtected 0) (State.created c) t) ∧
    ∃ t, exec (.ldMemVx x) (State.created c) = .next t ∧ RaisedFrom (.writeProtected 0) (State.created c) t

/-- The invariant holds at reset, in every configuration (R41). -/
def Obligations.InvariantHoldsAtReset : Prop :=
  State.reset.Inv ∧ ∀ c, (State.created c).Inv

/-- R41 is kept by every step, from every state that has it: the canonical form of memory, the bytes below
0x200, the bound of `PC` and of every return address. -/
def Obligations.StepKeepsInvariant : Prop :=
  ∀ s t : State, s.Inv → step s = .next t → t.Inv

/-- R41, "between any two commands": every schedule of commands from every state with the invariant ends in
one, and from reset every schedule ends where the stated facts of R41 hold. -/
def Obligations.EveryScheduleKeepsInvariant : Prop :=
  (∀ (cs : List Command) (s : State), s.Inv → ∃ t, runCommands cs s = .next t ∧ t.Inv ∧ t.cfg = s.cfg) ∧
  ∀ (cs : List Command) (c : Config), ∃ t, runCommands cs (State.created c) = .next t ∧
    t.sp.val ≤ 16 ∧ (∀ (a : Nat) (h : a < 80), t.readByte a = c.font[a]) ∧
    (∀ a, 0x50 ≤ a → a ≤ 0x1FF → t.readByte a = 0#8) ∧ t.pc.toNat ≤ 0x10FE
end

