-- ==== Sys2Proof/Laws/Decode.lean ====
section
/-! SUPPORT. What each field reads from a word built by the encoder, format by format (30_encoding.md
R74, R75), with fields and words as numbers. -/

namespace Sys2Proof

/-- A concatenation as a number: the first part in the high bits (00_scope.md R11). -/
theorem toNat_append_eq {m n : Nat} (a : BitVec m) (b : BitVec n) :
    (a ++ b).toNat = a.toNat * 2 ^ n + b.toNat := by
  rw [BitVec.toNat_append, ← Nat.shiftLeft_add_eq_or_of_lt b.isLt, Nat.shiftLeft_eq]

/-! ### Words as numbers -/

@[simp] theorem regBits_toNat (r : Reg) : (regBits r).toNat = r.val := rfl

theorem wordNNN_toNat (op : BitVec 4) (nnn : BitVec 12) :
    (wordNNN op nnn).toNat = op.toNat * 4096 + nnn.toNat :=
  toNat_append_eq op nnn

theorem wordXNN_toNat (op : BitVec 4) (x : Reg) (nn : Byte) :
    (wordXNN op x nn).toNat = op.toNat * 4096 + x.val * 256 + nn.toNat := by
  have h : (wordXNN op x nn).toNat = ((op ++ regBits x) ++ nn).toNat := rfl
  rw [h, toNat_append_eq, toNat_append_eq, regBits_toNat]
  ring

theorem wordXYN_toNat (op : BitVec 4) (x y : Reg) (n : BitVec 4) :
    (wordXYN op x y n).toNat = op.toNat * 4096 + x.val * 256 + y.val * 16 + n.toNat := by
  have h : (wordXYN op x y n).toNat = ((op ++ regBits x) ++ (regBits y ++ n)).toNat := rfl
  rw [h, toNat_append_eq, toNat_append_eq, toNat_append_eq, regBits_toNat, regBits_toNat]
  ring

theorem wordOfBytes_toNat (hi lo : Byte) : (wordOfBytes hi lo).toNat = hi.toNat * 256 + lo.toNat :=
  toNat_append_eq hi lo

/-! ### Fields as numbers -/

theorem fieldOp_toNat (w : Word) : (fieldOp w).toNat = w.toNat / 4096 := by
  simp [fieldOp, Nat.shiftRight_eq_div_pow]; omega

theorem fieldX_val (w : Word) : (fieldX w).val = w.toNat / 256 % 16 := by
  simp [fieldX, Nat.shiftRight_eq_div_pow]

theorem fieldY_val (w : Word) : (fieldY w).val = w.toNat / 16 % 16 := by
  simp [fieldY, Nat.shiftRight_eq_div_pow]

theorem fieldN_toNat (w : Word) : (fieldN w).toNat = w.toNat % 16 := by
  simp [fieldN]

theorem fieldNN_toNat (w : Word) : (fieldNN w).toNat = w.toNat % 256 := by
  simp [fieldNN]

theorem fieldNNN_toNat (w : Word) : (fieldNNN w).toNat = w.toNat % 4096 := by
  simp [fieldNNN]

theorem highByte_toNat (w : Word) : (highByte w).toNat = w.toNat / 256 := by
  simp [highByte, Nat.shiftRight_eq_div_pow]; omega

theorem lowByte_toNat (w : Word) : (lowByte w).toNat = w.toNat % 256 := by
  simp [lowByte]

/-- The two bytes of a word make the word (20_memory.md R52). -/
@[simp] theorem wordOfBytes_bytes (w : Word) : wordOfBytes (highByte w) (lowByte w) = w := by
  apply BitVec.eq_of_toNat_eq
  rw [wordOfBytes_toNat, highByte_toNat, lowByte_toNat]
  omega

/-! ### The fields of each format -/

@[simp] theorem fieldOp_wordNNN (op : BitVec 4) (nnn : BitVec 12) : fieldOp (wordNNN op nnn) = op := by
  apply BitVec.eq_of_toNat_eq
  rw [fieldOp_toNat, wordNNN_toNat]
  omega

@[simp] theorem fieldNNN_wordNNN (op : BitVec 4) (nnn : BitVec 12) : fieldNNN (wordNNN op nnn) = nnn := by
  apply BitVec.eq_of_toNat_eq
  rw [fieldNNN_toNat, wordNNN_toNat]
  omega

@[simp] theorem fieldOp_wordXNN (op : BitVec 4) (x : Reg) (nn : Byte) : fieldOp (wordXNN op x nn) = op := by
  apply BitVec.eq_of_toNat_eq
  rw [fieldOp_toNat, wordXNN_toNat]
  omega

@[simp] theorem fieldX_wordXNN (op : BitVec 4) (x : Reg) (nn : Byte) : fieldX (wordXNN op x nn) = x := by
  apply Fin.ext
  rw [fieldX_val, wordXNN_toNat]
  omega

@[simp] theorem fieldNN_wordXNN (op : BitVec 4) (x : Reg) (nn : Byte) : fieldNN (wordXNN op x nn) = nn := by
  apply BitVec.eq_of_toNat_eq
  rw [fieldNN_toNat, wordXNN_toNat]
  omega

@[simp] theorem fieldOp_wordXYN (op : BitVec 4) (x y : Reg) (n : BitVec 4) :
    fieldOp (wordXYN op x y n) = op := by
  apply BitVec.eq_of_toNat_eq
  rw [fieldOp_toNat, wordXYN_toNat]
  omega

@[simp] theorem fieldX_wordXYN (op : BitVec 4) (x y : Reg) (n : BitVec 4) :
    fieldX (wordXYN op x y n) = x := by
  apply Fin.ext
  rw [fieldX_val, wordXYN_toNat]
  omega

@[simp] theorem fieldY_wordXYN (op : BitVec 4) (x y : Reg) (n : BitVec 4) :
    fieldY (wordXYN op x y n) = y := by
  apply Fin.ext
  rw [fieldY_val, wordXYN_toNat]
  omega

@[simp] theorem fieldN_wordXYN (op : BitVec 4) (x y : Reg) (n : BitVec 4) :
    fieldN (wordXYN op x y n) = n := by
  apply BitVec.eq_of_toNat_eq
  rw [fieldN_toNat, wordXYN_toNat]
  omega

/-! ### A word from its fields, and under the masks of R78 -/

/-- Every word is made of its four nibbles (R74). -/
theorem wordXYN_fields (w : Word) : wordXYN (fieldOp w) (fieldX w) (fieldY w) (fieldN w) = w := by
  apply BitVec.eq_of_toNat_eq
  rw [wordXYN_toNat, fieldOp_toNat, fieldX_val, fieldY_val, fieldN_toNat]
  omega

theorem wordXNN_fields (w : Word) : wordXNN (fieldOp w) (fieldX w) (fieldNN w) = w := by
  apply BitVec.eq_of_toNat_eq
  rw [wordXNN_toNat, fieldOp_toNat, fieldX_val, fieldNN_toNat]
  omega

theorem wordNNN_fields (w : Word) : wordNNN (fieldOp w) (fieldNNN w) = w := by
  apply BitVec.eq_of_toNat_eq
  rw [wordNNN_toNat, fieldOp_toNat, fieldNNN_toNat]
  omega

theorem wordNNN_mask (op : BitVec 4) (nnn : BitVec 12) :
    wordNNN op nnn &&& 0xF000#16 = wordNNN op 0#12 := by
  have h : wordNNN op nnn &&& 0xF000#16 = (op ++ nnn) &&& (0xF#4 ++ 0#12) := rfl
  rw [h, BitVec.and_append, BitVec.and_zero, show (0xF#4) = BitVec.allOnes 4 from rfl, BitVec.and_allOnes]
  rfl

theorem wordXNN_mask_op (op : BitVec 4) (x : Reg) (nn : Byte) :
    wordXNN op x nn &&& 0xF000#16 = wordNNN op 0#12 := by
  have h := wordNNN_fields (wordXNN op x nn)
  rw [fieldOp_wordXNN] at h
  rw [← h, wordNNN_mask]

theorem wordXNN_mask_low (op : BitVec 4) (x : Reg) (nn : Byte) :
    wordXNN op x nn &&& 0xF0FF#16 = wordXNN op 0 nn := by
  have h : wordXNN op x nn &&& 0xF0FF#16 = ((op ++ regBits x) ++ nn) &&& ((0xF#4 ++ 0#4) ++ 0xFF#8) := rfl
  rw [h, BitVec.and_append, BitVec.and_append, BitVec.and_zero, show (0xF#4) = BitVec.allOnes 4 from rfl,
    show (0xFF#8) = BitVec.allOnes 8 from rfl, BitVec.and_allOnes, BitVec.and_allOnes]
  rfl

theorem wordXYN_mask_low (op : BitVec 4) (x y : Reg) (n : BitVec 4) :
    wordXYN op x y n &&& 0xF00F#16 = wordXYN op 0 0 n := by
  have h : wordXYN op x y n &&& 0xF00F#16 =
      ((op ++ regBits x) ++ (regBits y ++ n)) &&& ((0xF#4 ++ 0#4) ++ (0#4 ++ 0xF#4)) := rfl
  rw [h, BitVec.and_append, BitVec.and_append, BitVec.and_append, BitVec.and_zero, BitVec.and_zero,
    show (0xF#4) = BitVec.allOnes 4 from rfl, BitVec.and_allOnes, BitVec.and_allOnes]
  rfl

theorem wordXYN_mask_op (op : BitVec 4) (x y : Reg) (n : BitVec 4) :
    wordXYN op x y n &&& 0xF000#16 = wordNNN op 0#12 := by
  have h := wordNNN_fields (wordXYN op x y n)
  rw [fieldOp_wordXYN] at h
  rw [← h, wordNNN_mask]

/-! ### A row of R78, from its masked bits to its fields -/

/-- Mask 0xF000 fixes the primary opcode. -/
theorem fieldOp_of_mask {w : Word} {k : Nat} (hk : k < 16)
    (h : w &&& 0xF000#16 = BitVec.ofNat 16 (k * 4096)) : (fieldOp w).toNat = k := by
  rw [← wordNNN_fields w, wordNNN_mask] at h
  have := congrArg BitVec.toNat h
  rw [wordNNN_toNat] at this
  simp at this
  omega

/-- Mask 0xF0FF fixes the primary opcode and the low byte. -/
theorem fields_of_mask_low {w : Word} {k n : Nat} (hk : k < 16) (hn : n < 256)
    (h : w &&& 0xF0FF#16 = BitVec.ofNat 16 (k * 4096 + n)) :
    (fieldOp w).toNat = k ∧ (fieldNN w).toNat = n := by
  rw [← wordXNN_fields w, wordXNN_mask_low] at h
  have := congrArg BitVec.toNat h
  rw [wordXNN_toNat] at this
  simp at this
  omega

/-- Mask 0xF00F fixes the primary opcode and the low nibble. -/
theorem fields_of_mask_nibble {w : Word} {k n : Nat} (hk : k < 16) (hn : n < 16)
    (h : w &&& 0xF00F#16 = BitVec.ofNat 16 (k * 4096 + n)) :
    (fieldOp w).toNat = k ∧ (fieldN w).toNat = n := by
  rw [← wordXYN_fields w, wordXYN_mask_low] at h
  have := congrArg BitVec.toNat h
  rw [wordXYN_toNat] at this
  simp at this
  omega

end Sys2Proof
end

