-- ==== Sys2Proof/Laws/Memory.lean ====
section
/-! SUPPORT. The laws of memory: a byte written reads back, every other byte is left alone, and the
canonical form is kept. -/

namespace Sys2Proof.Machine

variable {font : Vector Byte 80} {m : Memory} {a b : Nat} {v : Byte}

theorem Memory.wf_nil : Memory.wf font [] := by simp [Memory.wf]

/-- An address no entry lists reads as unlisted. -/
theorem Memory.read_of_ne (h : ∀ c ∈ m, c.1 ≠ a) : Memory.read font m a = Memory.unlisted font a := by
  induction m with
  | nil => rfl
  | cons c m ih =>
    have hc := h c (by simp)
    simp only [Memory.read, if_neg (Ne.symm hc)]
    exact ih fun d hd => h d (by simp [hd])

theorem Memory.mem_erase {c : Host.Cell} : c ∈ Memory.erase m a ↔ c ∈ m ∧ c.1 ≠ a := by
  simp [Memory.erase]

theorem Memory.read_erase_same : Memory.read font (Memory.erase m a) a = Memory.unlisted font a :=
  Memory.read_of_ne fun _ hc => (Memory.mem_erase.mp hc).2

theorem Memory.read_erase_other (h : b ≠ a) :
    Memory.read font (Memory.erase m a) b = Memory.read font m b := by
  induction m with
  | nil => rfl
  | cons c m ih =>
    by_cases hc : c.1 = a
    · have : b ≠ c.1 := by rw [hc]; exact h
      simpa [Memory.erase, hc, Memory.read, this, h] using ih
    · simpa [Memory.erase, hc, Memory.read] using by rw [← ih, Memory.erase]

theorem Memory.mem_insertCell {c d : Host.Cell} : d ∈ Memory.insertCell c m ↔ d = c ∨ d ∈ m := by
  induction m with
  | nil => simp [Memory.insertCell]
  | cons e m ih =>
    simp only [Memory.insertCell]
    split
    · simp
    · simp only [List.mem_cons, ih]; tauto

theorem Memory.read_insertCell_other (h : b ≠ a) :
    Memory.read font (Memory.insertCell (a, v) m) b = Memory.read font m b := by
  induction m with
  | nil => simp [Memory.insertCell, Memory.read, h]
  | cons e m ih =>
    simp only [Memory.insertCell]
    split
    · simp [Memory.read, h]
    · simp [Memory.read, ih]

theorem Memory.read_insertCell_same (h : ∀ c ∈ m, c.1 ≠ a) :
    Memory.read font (Memory.insertCell (a, v) m) a = v := by
  induction m with
  | nil => simp [Memory.insertCell, Memory.read]
  | cons e m ih =>
    have he := h e (by simp)
    simp only [Memory.insertCell]
    split
    · simp [Memory.read]
    · simpa [Memory.read, Ne.symm he] using ih fun c hc => h c (by simp [hc])

/-- The byte written is the byte read. -/
@[simp] theorem Memory.read_write_same : Memory.read font (Memory.write font m a v) a = v := by
  unfold Memory.write
  split
  · next e => rw [Memory.read_erase_same, e]
  · exact Memory.read_insertCell_same fun _ hc => (Memory.mem_erase.mp hc).2

/-- Every other byte is left alone. -/
theorem Memory.read_write_other (h : b ≠ a) :
    Memory.read font (Memory.write font m a v) b = Memory.read font m b := by
  unfold Memory.write
  split
  · exact Memory.read_erase_other h
  · rw [Memory.read_insertCell_other h, Memory.read_erase_other h]

/-- A read after a write, at any address. -/
theorem Memory.read_write :
    Memory.read font (Memory.write font m a v) b = if b = a then v else Memory.read font m b := by
  split
  · next h => rw [h, Memory.read_write_same]
  · next h => exact Memory.read_write_other h

theorem Memory.erase_wf (h : Memory.wf font m) : Memory.wf font (Memory.erase m a) :=
  ⟨h.1.filter _, fun c hc => h.2 c (Memory.mem_erase.mp hc).1⟩

theorem Memory.insertCell_wf (h : Memory.wf font m) (hm : ∀ c ∈ m, c.1 ≠ a) (ha : a < 0x1000)
    (hv : v ≠ Memory.unlisted font a) : Memory.wf font (Memory.insertCell (a, v) m) := by
  refine ⟨?_, fun c hc => ?_⟩
  · have hp := h.1
    clear h
    induction m with
    | nil => simp [Memory.insertCell]
    | cons e m ih =>
      have he := List.pairwise_cons.mp hp
      have hne := hm e (by simp)
      simp only [Memory.insertCell]
      split
      · next hlt =>
        refine List.pairwise_cons.mpr ⟨fun d hd => ?_, hp⟩
        rcases List.mem_cons.mp hd with rfl | hd
        · exact hlt
        · exact lt_trans hlt (he.1 d hd)
      · next hge =>
        refine List.pairwise_cons.mpr ⟨fun d hd => ?_, ih (fun c hc => hm c (by simp [hc])) he.2⟩
        rcases Memory.mem_insertCell.mp hd with rfl | hd
        · exact lt_of_le_of_ne (not_lt.mp hge) hne
        · exact he.1 d hd
  · rcases Memory.mem_insertCell.mp hc with rfl | hc
    · exact ⟨ha, hv⟩
    · exact h.2 c hc

/-- A write below 0x1000 keeps the canonical form. -/
theorem Memory.write_wf (h : Memory.wf font m) (ha : a < 0x1000) :
    Memory.wf font (Memory.write font m a v) := by
  unfold Memory.write
  split
  · exact Memory.erase_wf h
  · next hv =>
    exact Memory.insertCell_wf (Memory.erase_wf h) (fun _ hc => (Memory.mem_erase.mp hc).2) ha hv

end Sys2Proof.Machine
end

