-- ==== Sys2Proof/Laws/State.lean ====
section
/-! SUPPORT. What each update of the state leaves in each field, one lemma per field per update, so
that no later proof unfolds a record update. -/

namespace Sys2Proof.Machine

variable (s : State)

/-! ### `State.setV` -/

@[simp] theorem State.setV_mem (r : Reg) (b : Byte) : (s.setV r b).mem = s.mem := rfl
@[simp] theorem State.setV_v (r : Reg) (b : Byte) : (s.setV r b).v = s.v.set r b := rfl
@[simp] theorem State.setV_i (r : Reg) (b : Byte) : (s.setV r b).i = s.i := rfl
@[simp] theorem State.setV_pc (r : Reg) (b : Byte) : (s.setV r b).pc = s.pc := rfl
@[simp] theorem State.setV_stack (r : Reg) (b : Byte) : (s.setV r b).stack = s.stack := rfl
@[simp] theorem State.setV_sp (r : Reg) (b : Byte) : (s.setV r b).sp = s.sp := rfl
@[simp] theorem State.setV_dt (r : Reg) (b : Byte) : (s.setV r b).dt = s.dt := rfl
@[simp] theorem State.setV_st (r : Reg) (b : Byte) : (s.setV r b).st = s.st := rfl
@[simp] theorem State.setV_keys (r : Reg) (b : Byte) : (s.setV r b).keys = s.keys := rfl
@[simp] theorem State.setV_fb (r : Reg) (b : Byte) : (s.setV r b).fb = s.fb := rfl
@[simp] theorem State.setV_nr (r : Reg) (b : Byte) : (s.setV r b).nr = s.nr := rfl
@[simp] theorem State.setV_cfg (r : Reg) (b : Byte) : (s.setV r b).cfg = s.cfg := rfl
@[simp] theorem State.setV_status (r : Reg) (b : Byte) : (s.setV r b).status = s.status := rfl
@[simp] theorem State.setV_faultMark (r : Reg) (b : Byte) : (s.setV r b).faultMark = s.faultMark := rfl
@[simp] theorem State.setV_rndIn (r : Reg) (b : Byte) : (s.setV r b).rndIn = s.rndIn := rfl
@[simp] theorem State.setV_draws (r : Reg) (b : Byte) : (s.setV r b).draws = s.draws := rfl
@[simp] theorem State.setV_slot (r : Reg) (b : Byte) (j : Fin 16) : (s.setV r b).slot j = s.slot j := rfl
@[simp] theorem State.setV_key (r : Reg) (b : Byte) (k : Fin 16) : (s.setV r b).key k = s.key k := rfl
@[simp] theorem State.setV_readByte (r : Reg) (b : Byte) (a : Nat) : (s.setV r b).readByte a = s.readByte a := rfl

/-! ### `State.setI` -/

@[simp] theorem State.setI_mem (w : Word) : (s.setI w).mem = s.mem := rfl
@[simp] theorem State.setI_v (w : Word) : (s.setI w).v = s.v := rfl
@[simp] theorem State.setI_i (w : Word) : (s.setI w).i = w := rfl
@[simp] theorem State.setI_pc (w : Word) : (s.setI w).pc = s.pc := rfl
@[simp] theorem State.setI_stack (w : Word) : (s.setI w).stack = s.stack := rfl
@[simp] theorem State.setI_sp (w : Word) : (s.setI w).sp = s.sp := rfl
@[simp] theorem State.setI_dt (w : Word) : (s.setI w).dt = s.dt := rfl
@[simp] theorem State.setI_st (w : Word) : (s.setI w).st = s.st := rfl
@[simp] theorem State.setI_keys (w : Word) : (s.setI w).keys = s.keys := rfl
@[simp] theorem State.setI_fb (w : Word) : (s.setI w).fb = s.fb := rfl
@[simp] theorem State.setI_nr (w : Word) : (s.setI w).nr = s.nr := rfl
@[simp] theorem State.setI_cfg (w : Word) : (s.setI w).cfg = s.cfg := rfl
@[simp] theorem State.setI_status (w : Word) : (s.setI w).status = s.status := rfl
@[simp] theorem State.setI_faultMark (w : Word) : (s.setI w).faultMark = s.faultMark := rfl
@[simp] theorem State.setI_rndIn (w : Word) : (s.setI w).rndIn = s.rndIn := rfl
@[simp] theorem State.setI_draws (w : Word) : (s.setI w).draws = s.draws := rfl
@[simp] theorem State.setI_getV (w : Word) (q : Reg) : (s.setI w).getV q = s.getV q := rfl
@[simp] theorem State.setI_slot (w : Word) (j : Fin 16) : (s.setI w).slot j = s.slot j := rfl
@[simp] theorem State.setI_key (w : Word) (k : Fin 16) : (s.setI w).key k = s.key k := rfl
@[simp] theorem State.setI_readByte (w : Word) (a : Nat) : (s.setI w).readByte a = s.readByte a := rfl

/-! ### `State.setPc` -/

@[simp] theorem State.setPc_mem (w : Word) : (s.setPc w).mem = s.mem := rfl
@[simp] theorem State.setPc_v (w : Word) : (s.setPc w).v = s.v := rfl
@[simp] theorem State.setPc_i (w : Word) : (s.setPc w).i = s.i := rfl
@[simp] theorem State.setPc_pc (w : Word) : (s.setPc w).pc = w := rfl
@[simp] theorem State.setPc_stack (w : Word) : (s.setPc w).stack = s.stack := rfl
@[simp] theorem State.setPc_sp (w : Word) : (s.setPc w).sp = s.sp := rfl
@[simp] theorem State.setPc_dt (w : Word) : (s.setPc w).dt = s.dt := rfl
@[simp] theorem State.setPc_st (w : Word) : (s.setPc w).st = s.st := rfl
@[simp] theorem State.setPc_keys (w : Word) : (s.setPc w).keys = s.keys := rfl
@[simp] theorem State.setPc_fb (w : Word) : (s.setPc w).fb = s.fb := rfl
@[simp] theorem State.setPc_nr (w : Word) : (s.setPc w).nr = s.nr := rfl
@[simp] theorem State.setPc_cfg (w : Word) : (s.setPc w).cfg = s.cfg := rfl
@[simp] theorem State.setPc_status (w : Word) : (s.setPc w).status = s.status := rfl
@[simp] theorem State.setPc_faultMark (w : Word) : (s.setPc w).faultMark = s.faultMark := rfl
@[simp] theorem State.setPc_rndIn (w : Word) : (s.setPc w).rndIn = s.rndIn := rfl
@[simp] theorem State.setPc_draws (w : Word) : (s.setPc w).draws = s.draws := rfl
@[simp] theorem State.setPc_getV (w : Word) (q : Reg) : (s.setPc w).getV q = s.getV q := rfl
@[simp] theorem State.setPc_slot (w : Word) (j : Fin 16) : (s.setPc w).slot j = s.slot j := rfl
@[simp] theorem State.setPc_key (w : Word) (k : Fin 16) : (s.setPc w).key k = s.key k := rfl
@[simp] theorem State.setPc_readByte (w : Word) (a : Nat) : (s.setPc w).readByte a = s.readByte a := rfl

/-! ### `State.setDt` -/

@[simp] theorem State.setDt_mem (b : Byte) : (s.setDt b).mem = s.mem := rfl
@[simp] theorem State.setDt_v (b : Byte) : (s.setDt b).v = s.v := rfl
@[simp] theorem State.setDt_i (b : Byte) : (s.setDt b).i = s.i := rfl
@[simp] theorem State.setDt_pc (b : Byte) : (s.setDt b).pc = s.pc := rfl
@[simp] theorem State.setDt_stack (b : Byte) : (s.setDt b).stack = s.stack := rfl
@[simp] theorem State.setDt_sp (b : Byte) : (s.setDt b).sp = s.sp := rfl
@[simp] theorem State.setDt_dt (b : Byte) : (s.setDt b).dt = b := rfl
@[simp] theorem State.setDt_st (b : Byte) : (s.setDt b).st = s.st := rfl
@[simp] theorem State.setDt_keys (b : Byte) : (s.setDt b).keys = s.keys := rfl
@[simp] theorem State.setDt_fb (b : Byte) : (s.setDt b).fb = s.fb := rfl
@[simp] theorem State.setDt_nr (b : Byte) : (s.setDt b).nr = s.nr := rfl
@[simp] theorem State.setDt_cfg (b : Byte) : (s.setDt b).cfg = s.cfg := rfl
@[simp] theorem State.setDt_status (b : Byte) : (s.setDt b).status = s.status := rfl
@[simp] theorem State.setDt_faultMark (b : Byte) : (s.setDt b).faultMark = s.faultMark := rfl
@[simp] theorem State.setDt_rndIn (b : Byte) : (s.setDt b).rndIn = s.rndIn := rfl
@[simp] theorem State.setDt_draws (b : Byte) : (s.setDt b).draws = s.draws := rfl
@[simp] theorem State.setDt_getV (b : Byte) (q : Reg) : (s.setDt b).getV q = s.getV q := rfl
@[simp] theorem State.setDt_slot (b : Byte) (j : Fin 16) : (s.setDt b).slot j = s.slot j := rfl
@[simp] theorem State.setDt_key (b : Byte) (k : Fin 16) : (s.setDt b).key k = s.key k := rfl
@[simp] theorem State.setDt_readByte (b : Byte) (a : Nat) : (s.setDt b).readByte a = s.readByte a := rfl

/-! ### `State.setSt` -/

@[simp] theorem State.setSt_mem (b : Byte) : (s.setSt b).mem = s.mem := rfl
@[simp] theorem State.setSt_v (b : Byte) : (s.setSt b).v = s.v := rfl
@[simp] theorem State.setSt_i (b : Byte) : (s.setSt b).i = s.i := rfl
@[simp] theorem State.setSt_pc (b : Byte) : (s.setSt b).pc = s.pc := rfl
@[simp] theorem State.setSt_stack (b : Byte) : (s.setSt b).stack = s.stack := rfl
@[simp] theorem State.setSt_sp (b : Byte) : (s.setSt b).sp = s.sp := rfl
@[simp] theorem State.setSt_dt (b : Byte) : (s.setSt b).dt = s.dt := rfl
@[simp] theorem State.setSt_st (b : Byte) : (s.setSt b).st = b := rfl
@[simp] theorem State.setSt_keys (b : Byte) : (s.setSt b).keys = s.keys := rfl
@[simp] theorem State.setSt_fb (b : Byte) : (s.setSt b).fb = s.fb := rfl
@[simp] theorem State.setSt_nr (b : Byte) : (s.setSt b).nr = s.nr := rfl
@[simp] theorem State.setSt_cfg (b : Byte) : (s.setSt b).cfg = s.cfg := rfl
@[simp] theorem State.setSt_status (b : Byte) : (s.setSt b).status = s.status := rfl
@[simp] theorem State.setSt_faultMark (b : Byte) : (s.setSt b).faultMark = s.faultMark := rfl
@[simp] theorem State.setSt_rndIn (b : Byte) : (s.setSt b).rndIn = s.rndIn := rfl
@[simp] theorem State.setSt_draws (b : Byte) : (s.setSt b).draws = s.draws := rfl
@[simp] theorem State.setSt_getV (b : Byte) (q : Reg) : (s.setSt b).getV q = s.getV q := rfl
@[simp] theorem State.setSt_slot (b : Byte) (j : Fin 16) : (s.setSt b).slot j = s.slot j := rfl
@[simp] theorem State.setSt_key (b : Byte) (k : Fin 16) : (s.setSt b).key k = s.key k := rfl
@[simp] theorem State.setSt_readByte (b : Byte) (a : Nat) : (s.setSt b).readByte a = s.readByte a := rfl

/-! ### `State.setNr` -/

@[simp] theorem State.setNr_mem (b : Bool) : (s.setNr b).mem = s.mem := rfl
@[simp] theorem State.setNr_v (b : Bool) : (s.setNr b).v = s.v := rfl
@[simp] theorem State.setNr_i (b : Bool) : (s.setNr b).i = s.i := rfl
@[simp] theorem State.setNr_pc (b : Bool) : (s.setNr b).pc = s.pc := rfl
@[simp] theorem State.setNr_stack (b : Bool) : (s.setNr b).stack = s.stack := rfl
@[simp] theorem State.setNr_sp (b : Bool) : (s.setNr b).sp = s.sp := rfl
@[simp] theorem State.setNr_dt (b : Bool) : (s.setNr b).dt = s.dt := rfl
@[simp] theorem State.setNr_st (b : Bool) : (s.setNr b).st = s.st := rfl
@[simp] theorem State.setNr_keys (b : Bool) : (s.setNr b).keys = s.keys := rfl
@[simp] theorem State.setNr_fb (b : Bool) : (s.setNr b).fb = s.fb := rfl
@[simp] theorem State.setNr_nr (b : Bool) : (s.setNr b).nr = b := rfl
@[simp] theorem State.setNr_cfg (b : Bool) : (s.setNr b).cfg = s.cfg := rfl
@[simp] theorem State.setNr_status (b : Bool) : (s.setNr b).status = s.status := rfl
@[simp] theorem State.setNr_faultMark (b : Bool) : (s.setNr b).faultMark = s.faultMark := rfl
@[simp] theorem State.setNr_rndIn (b : Bool) : (s.setNr b).rndIn = s.rndIn := rfl
@[simp] theorem State.setNr_draws (b : Bool) : (s.setNr b).draws = s.draws := rfl
@[simp] theorem State.setNr_getV (b : Bool) (q : Reg) : (s.setNr b).getV q = s.getV q := rfl
@[simp] theorem State.setNr_slot (b : Bool) (j : Fin 16) : (s.setNr b).slot j = s.slot j := rfl
@[simp] theorem State.setNr_key (b : Bool) (k : Fin 16) : (s.setNr b).key k = s.key k := rfl
@[simp] theorem State.setNr_readByte (b : Bool) (a : Nat) : (s.setNr b).readByte a = s.readByte a := rfl

/-! ### `State.setFb` -/

@[simp] theorem State.setFb_mem (f : Framebuffer) : (s.setFb f).mem = s.mem := rfl
@[simp] theorem State.setFb_v (f : Framebuffer) : (s.setFb f).v = s.v := rfl
@[simp] theorem State.setFb_i (f : Framebuffer) : (s.setFb f).i = s.i := rfl
@[simp] theorem State.setFb_pc (f : Framebuffer) : (s.setFb f).pc = s.pc := rfl
@[simp] theorem State.setFb_stack (f : Framebuffer) : (s.setFb f).stack = s.stack := rfl
@[simp] theorem State.setFb_sp (f : Framebuffer) : (s.setFb f).sp = s.sp := rfl
@[simp] theorem State.setFb_dt (f : Framebuffer) : (s.setFb f).dt = s.dt := rfl
@[simp] theorem State.setFb_st (f : Framebuffer) : (s.setFb f).st = s.st := rfl
@[simp] theorem State.setFb_keys (f : Framebuffer) : (s.setFb f).keys = s.keys := rfl
@[simp] theorem State.setFb_fb (f : Framebuffer) : (s.setFb f).fb = f := rfl
@[simp] theorem State.setFb_nr (f : Framebuffer) : (s.setFb f).nr = s.nr := rfl
@[simp] theorem State.setFb_cfg (f : Framebuffer) : (s.setFb f).cfg = s.cfg := rfl
@[simp] theorem State.setFb_status (f : Framebuffer) : (s.setFb f).status = s.status := rfl
@[simp] theorem State.setFb_faultMark (f : Framebuffer) : (s.setFb f).faultMark = s.faultMark := rfl
@[simp] theorem State.setFb_rndIn (f : Framebuffer) : (s.setFb f).rndIn = s.rndIn := rfl
@[simp] theorem State.setFb_draws (f : Framebuffer) : (s.setFb f).draws = s.draws := rfl
@[simp] theorem State.setFb_getV (f : Framebuffer) (q : Reg) : (s.setFb f).getV q = s.getV q := rfl
@[simp] theorem State.setFb_slot (f : Framebuffer) (j : Fin 16) : (s.setFb f).slot j = s.slot j := rfl
@[simp] theorem State.setFb_key (f : Framebuffer) (k : Fin 16) : (s.setFb f).key k = s.key k := rfl
@[simp] theorem State.setFb_readByte (f : Framebuffer) (a : Nat) : (s.setFb f).readByte a = s.readByte a := rfl

/-! ### `State.setKeys` -/

@[simp] theorem State.setKeys_mem (k : Vector Bool 16) : (s.setKeys k).mem = s.mem := rfl
@[simp] theorem State.setKeys_v (k : Vector Bool 16) : (s.setKeys k).v = s.v := rfl
@[simp] theorem State.setKeys_i (k : Vector Bool 16) : (s.setKeys k).i = s.i := rfl
@[simp] theorem State.setKeys_pc (k : Vector Bool 16) : (s.setKeys k).pc = s.pc := rfl
@[simp] theorem State.setKeys_stack (k : Vector Bool 16) : (s.setKeys k).stack = s.stack := rfl
@[simp] theorem State.setKeys_sp (k : Vector Bool 16) : (s.setKeys k).sp = s.sp := rfl
@[simp] theorem State.setKeys_dt (k : Vector Bool 16) : (s.setKeys k).dt = s.dt := rfl
@[simp] theorem State.setKeys_st (k : Vector Bool 16) : (s.setKeys k).st = s.st := rfl
@[simp] theorem State.setKeys_keys (k : Vector Bool 16) : (s.setKeys k).keys = k := rfl
@[simp] theorem State.setKeys_fb (k : Vector Bool 16) : (s.setKeys k).fb = s.fb := rfl
@[simp] theorem State.setKeys_nr (k : Vector Bool 16) : (s.setKeys k).nr = s.nr := rfl
@[simp] theorem State.setKeys_cfg (k : Vector Bool 16) : (s.setKeys k).cfg = s.cfg := rfl
@[simp] theorem State.setKeys_status (k : Vector Bool 16) : (s.setKeys k).status = s.status := rfl
@[simp] theorem State.setKeys_faultMark (k : Vector Bool 16) : (s.setKeys k).faultMark = s.faultMark := rfl
@[simp] theorem State.setKeys_rndIn (k : Vector Bool 16) : (s.setKeys k).rndIn = s.rndIn := rfl
@[simp] theorem State.setKeys_draws (k : Vector Bool 16) : (s.setKeys k).draws = s.draws := rfl
@[simp] theorem State.setKeys_getV (k : Vector Bool 16) (q : Reg) : (s.setKeys k).getV q = s.getV q := rfl
@[simp] theorem State.setKeys_slot (k : Vector Bool 16) (j : Fin 16) : (s.setKeys k).slot j = s.slot j := rfl
@[simp] theorem State.setKeys_readByte (k : Vector Bool 16) (a : Nat) : (s.setKeys k).readByte a = s.readByte a := rfl

/-! ### `State.writeByte` -/

@[simp] theorem State.writeByte_mem (n : Nat) (b : Byte) : (s.writeByte n b).mem = Memory.write s.cfg.font s.mem n b := rfl
@[simp] theorem State.writeByte_v (n : Nat) (b : Byte) : (s.writeByte n b).v = s.v := rfl
@[simp] theorem State.writeByte_i (n : Nat) (b : Byte) : (s.writeByte n b).i = s.i := rfl
@[simp] theorem State.writeByte_pc (n : Nat) (b : Byte) : (s.writeByte n b).pc = s.pc := rfl
@[simp] theorem State.writeByte_stack (n : Nat) (b : Byte) : (s.writeByte n b).stack = s.stack := rfl
@[simp] theorem State.writeByte_sp (n : Nat) (b : Byte) : (s.writeByte n b).sp = s.sp := rfl
@[simp] theorem State.writeByte_dt (n : Nat) (b : Byte) : (s.writeByte n b).dt = s.dt := rfl
@[simp] theorem State.writeByte_st (n : Nat) (b : Byte) : (s.writeByte n b).st = s.st := rfl
@[simp] theorem State.writeByte_keys (n : Nat) (b : Byte) : (s.writeByte n b).keys = s.keys := rfl
@[simp] theorem State.writeByte_fb (n : Nat) (b : Byte) : (s.writeByte n b).fb = s.fb := rfl
@[simp] theorem State.writeByte_nr (n : Nat) (b : Byte) : (s.writeByte n b).nr = s.nr := rfl
@[simp] theorem State.writeByte_cfg (n : Nat) (b : Byte) : (s.writeByte n b).cfg = s.cfg := rfl
@[simp] theorem State.writeByte_status (n : Nat) (b : Byte) : (s.writeByte n b).status = s.status := rfl
@[simp] theorem State.writeByte_faultMark (n : Nat) (b : Byte) : (s.writeByte n b).faultMark = s.faultMark := rfl
@[simp] theorem State.writeByte_rndIn (n : Nat) (b : Byte) : (s.writeByte n b).rndIn = s.rndIn := rfl
@[simp] theorem State.writeByte_draws (n : Nat) (b : Byte) : (s.writeByte n b).draws = s.draws := rfl
@[simp] theorem State.writeByte_getV (n : Nat) (b : Byte) (q : Reg) : (s.writeByte n b).getV q = s.getV q := rfl
@[simp] theorem State.writeByte_slot (n : Nat) (b : Byte) (j : Fin 16) : (s.writeByte n b).slot j = s.slot j := rfl
@[simp] theorem State.writeByte_key (n : Nat) (b : Byte) (k : Fin 16) : (s.writeByte n b).key k = s.key k := rfl

/-! ### `State.report` -/

@[simp] theorem State.report_mem (e : Status) : (s.report e).mem = s.mem := rfl
@[simp] theorem State.report_v (e : Status) : (s.report e).v = s.v := rfl
@[simp] theorem State.report_i (e : Status) : (s.report e).i = s.i := rfl
@[simp] theorem State.report_pc (e : Status) : (s.report e).pc = s.pc := rfl
@[simp] theorem State.report_stack (e : Status) : (s.report e).stack = s.stack := rfl
@[simp] theorem State.report_sp (e : Status) : (s.report e).sp = s.sp := rfl
@[simp] theorem State.report_dt (e : Status) : (s.report e).dt = s.dt := rfl
@[simp] theorem State.report_st (e : Status) : (s.report e).st = s.st := rfl
@[simp] theorem State.report_keys (e : Status) : (s.report e).keys = s.keys := rfl
@[simp] theorem State.report_fb (e : Status) : (s.report e).fb = s.fb := rfl
@[simp] theorem State.report_nr (e : Status) : (s.report e).nr = s.nr := rfl
@[simp] theorem State.report_cfg (e : Status) : (s.report e).cfg = s.cfg := rfl
@[simp] theorem State.report_status (e : Status) : (s.report e).status = e := rfl
@[simp] theorem State.report_faultMark (e : Status) : (s.report e).faultMark = if s.faultMark = none ∧ e ≠ .ok then some e else s.faultMark := rfl
@[simp] theorem State.report_rndIn (e : Status) : (s.report e).rndIn = s.rndIn := rfl
@[simp] theorem State.report_draws (e : Status) : (s.report e).draws = s.draws := rfl
@[simp] theorem State.report_getV (e : Status) (q : Reg) : (s.report e).getV q = s.getV q := rfl
@[simp] theorem State.report_slot (e : Status) (j : Fin 16) : (s.report e).slot j = s.slot j := rfl
@[simp] theorem State.report_key (e : Status) (k : Fin 16) : (s.report e).key k = s.key k := rfl
@[simp] theorem State.report_readByte (e : Status) (a : Nat) : (s.report e).readByte a = s.readByte a := rfl

/-! ### `State.advance` -/

@[simp] theorem State.advance_mem : s.advance.mem = s.mem := rfl
@[simp] theorem State.advance_v : s.advance.v = s.v := rfl
@[simp] theorem State.advance_i : s.advance.i = s.i := rfl
@[simp] theorem State.advance_pc : s.advance.pc = s.pc + 2#16 := rfl
@[simp] theorem State.advance_stack : s.advance.stack = s.stack := rfl
@[simp] theorem State.advance_sp : s.advance.sp = s.sp := rfl
@[simp] theorem State.advance_dt : s.advance.dt = s.dt := rfl
@[simp] theorem State.advance_st : s.advance.st = s.st := rfl
@[simp] theorem State.advance_keys : s.advance.keys = s.keys := rfl
@[simp] theorem State.advance_fb : s.advance.fb = s.fb := rfl
@[simp] theorem State.advance_nr : s.advance.nr = s.nr := rfl
@[simp] theorem State.advance_cfg : s.advance.cfg = s.cfg := rfl
@[simp] theorem State.advance_status : s.advance.status = s.status := rfl
@[simp] theorem State.advance_faultMark : s.advance.faultMark = s.faultMark := rfl
@[simp] theorem State.advance_rndIn : s.advance.rndIn = s.rndIn := rfl
@[simp] theorem State.advance_draws : s.advance.draws = s.draws := rfl
@[simp] theorem State.advance_getV (q : Reg) : s.advance.getV q = s.getV q := rfl
@[simp] theorem State.advance_slot (j : Fin 16) : s.advance.slot j = s.slot j := rfl
@[simp] theorem State.advance_key (k : Fin 16) : s.advance.key k = s.key k := rfl
@[simp] theorem State.advance_readByte (a : Nat) : s.advance.readByte a = s.readByte a := rfl

/-! ### `State.setRegs` -/

@[simp] theorem State.setRegs_mem (v : Vector Byte 16) : (s.setRegs v).mem = s.mem := rfl
@[simp] theorem State.setRegs_v (v : Vector Byte 16) : (s.setRegs v).v = v := rfl
@[simp] theorem State.setRegs_i (v : Vector Byte 16) : (s.setRegs v).i = s.i := rfl
@[simp] theorem State.setRegs_pc (v : Vector Byte 16) : (s.setRegs v).pc = s.pc := rfl
@[simp] theorem State.setRegs_stack (v : Vector Byte 16) : (s.setRegs v).stack = s.stack := rfl
@[simp] theorem State.setRegs_sp (v : Vector Byte 16) : (s.setRegs v).sp = s.sp := rfl
@[simp] theorem State.setRegs_dt (v : Vector Byte 16) : (s.setRegs v).dt = s.dt := rfl
@[simp] theorem State.setRegs_st (v : Vector Byte 16) : (s.setRegs v).st = s.st := rfl
@[simp] theorem State.setRegs_keys (v : Vector Byte 16) : (s.setRegs v).keys = s.keys := rfl
@[simp] theorem State.setRegs_fb (v : Vector Byte 16) : (s.setRegs v).fb = s.fb := rfl
@[simp] theorem State.setRegs_nr (v : Vector Byte 16) : (s.setRegs v).nr = s.nr := rfl
@[simp] theorem State.setRegs_cfg (v : Vector Byte 16) : (s.setRegs v).cfg = s.cfg := rfl
@[simp] theorem State.setRegs_status (v : Vector Byte 16) : (s.setRegs v).status = s.status := rfl
@[simp] theorem State.setRegs_faultMark (v : Vector Byte 16) : (s.setRegs v).faultMark = s.faultMark := rfl
@[simp] theorem State.setRegs_rndIn (v : Vector Byte 16) : (s.setRegs v).rndIn = s.rndIn := rfl
@[simp] theorem State.setRegs_draws (v : Vector Byte 16) : (s.setRegs v).draws = s.draws := rfl
@[simp] theorem State.setRegs_slot (v : Vector Byte 16) (j : Fin 16) : (s.setRegs v).slot j = s.slot j := rfl
@[simp] theorem State.setRegs_key (v : Vector Byte 16) (k : Fin 16) : (s.setRegs v).key k = s.key k := rfl
@[simp] theorem State.setRegs_readByte (v : Vector Byte 16) (a : Nat) : (s.setRegs v).readByte a = s.readByte a := rfl

/-! ### What the register, key and block updates read back as -/

@[simp] theorem State.setV_getV (r : Reg) (b : Byte) (q : Reg) :
    (s.setV r b).getV q = if q = r then b else s.getV q := by
  simp only [State.getV, State.setV, Fin.getElem_fin, Vector.getElem_set, Fin.ext_iff, eq_comm]

@[simp] theorem State.setKeys_key (k : Vector Bool 16) (j : Fin 16) : (s.setKeys k).key j = k[j] := rfl

@[simp] theorem State.setRegs_loadedRegs_getV (x : Reg) (n : Nat) (q : Reg) :
    (s.setRegs (s.loadedRegs x n)).getV q = if q ≤ x then s.readByte (n + q.val) else s.getV q := by
  simp only [State.getV, State.setRegs, State.loadedRegs, Fin.getElem_fin, Vector.getElem_ofFn]

/-- The two writes of a result and a flag, read back: the flag wins in VF (43_alu.md R131). -/
theorem State.setResultThenFlag_getV (x : Reg) (result flag : Byte) (q : Reg) :
    (s.setResultThenFlag x result flag).getV q =
      if q = regF then flag else if q = x then result else s.getV q := by
  simp [State.setResultThenFlag]

end Sys2Proof.Machine
end

