-- ==== Sys2Proof/Laws/Ops.lean ====
section
/-! SUPPORT. One law per shared operation that says everything the operation can do: memory bytes,
address checks, reporting, the call stack, the random byte, and the pixels of the framebuffer. -/

namespace Sys2Proof.Machine

variable {s t : State}

/-! ### Bytes of memory -/

theorem State.writeByte_readByte (n : Nat) (b : Byte) (a : Nat) :
    (s.writeByte n b).readByte a = if a = n then b else s.readByte a := Memory.read_write

/-- A block write changes memory only. -/
theorem State.writeBytes_eq (bs : List Byte) (n : Nat) (s : State) :
    s.writeBytes n bs = { s with mem := (s.writeBytes n bs).mem } := by
  induction bs generalizing n s with
  | nil => rfl
  | cons b bs ih => rw [State.writeBytes, ih]; rfl

/-- A block write, read back: byte `k` of the list at `n + k`, every other address as before. -/
theorem State.writeBytes_readByte (bs : List Byte) (n : Nat) (s : State) (a : Nat) :
    (s.writeBytes n bs).readByte a =
      if h : n ≤ a ∧ a - n < bs.length then bs[a - n] else s.readByte a := by
  induction bs generalizing n s with
  | nil => simp [State.writeBytes]
  | cons b bs ih =>
    rw [State.writeBytes, ih, State.writeByte_readByte]
    by_cases h1 : a = n
    · subst h1; simp
    · by_cases h2 : n + 1 ≤ a
      · have e : a - n = (a - (n + 1)) + 1 := by omega
        by_cases h3 : a - (n + 1) < bs.length
        · rw [dif_pos ⟨h2, h3⟩, dif_pos ⟨by omega, by simp; omega⟩]
          simp [e]
        · rw [dif_neg (by omega), if_neg h1, dif_neg (by simp; omega)]
      · rw [dif_neg (by omega), if_neg h1, dif_neg (by omega)]

/-- A block write below 0x1000 keeps the canonical form of memory. -/
theorem State.writeBytes_wf (bs : List Byte) (n : Nat) (s : State)
    (h : Memory.wf s.cfg.font s.mem) (hn : n + bs.length ≤ 0x1000) :
    Memory.wf s.cfg.font (s.writeBytes n bs).mem := by
  induction bs generalizing n s with
  | nil => exact h
  | cons b bs ih =>
    simp only [List.length_cons] at hn
    exact ih (n + 1) (s.writeByte n b) (Memory.write_wf h (by omega)) (by omega)

/-- Memory is in canonical form at creation, and so at reset. -/
theorem State.created_mem_wf (c : Config) : Memory.wf c.font (State.created c).mem := Memory.wf_nil

@[simp] theorem State.readBytes_length (s : State) (a n : Nat) : (s.readBytes a n).length = n := by
  simp [State.readBytes]

@[simp] theorem State.readBytes_getElem (s : State) (a n k : Nat) (h : k < (s.readBytes a n).length) :
    (s.readBytes a n)[k] = s.readByte (a + k) := by
  simp [State.readBytes]

/-! ### Address checks -/

/-- The checks of `n` bytes fail at the first failing address: `k` bytes pass, the next does not. -/
theorem checkAll_eq_some {check : Nat → Option Status} {a n k : Nat} {e : Status} (hk : k < n)
    (hpass : ∀ j, j < k → check (a + j) = none) (hfail : check (a + k) = some e) :
    checkAll check a n = some e := by
  unfold checkAll
  rw [List.findSome?_eq_some_iff]
  refine ⟨List.range k, k, (List.range (n - (k + 1))).map (k + 1 + ·), ?_, hfail, fun j hj => ?_⟩
  · rw [← List.singleton_append, ← List.append_assoc, show List.range k ++ [k] = List.range (k + 1) from
      List.range_succ.symm, ← List.range_add]
    congr 1; omega
  · exact hpass j (by simpa using hj)

theorem checkAll_eq_none {check : Nat → Option Status} {a n : Nat} :
    checkAll check a n = none ↔ ∀ j, j < n → check (a + j) = none := by
  simp [checkAll, List.findSome?_eq_none_iff]

/-- The read checks of an access of `n` bytes at `a` (20_memory.md R54, R57). -/
theorem checkAll_read (a n : Nat) :
    checkAll readCheck a n =
      if n = 0 ∨ a + n ≤ 0x1000 then none else some (.addressOutOfRange (max a 0x1000)) := by
  split
  · next h =>
    refine checkAll_eq_none.mpr fun j hj => ?_
    simp [readCheck]; omega
  · next h =>
    push Not at h
    refine checkAll_eq_some (k := 0x1000 - a) (by omega) (fun j hj => ?_) ?_
    · simp [readCheck]; omega
    · have : a + (0x1000 - a) = max a 0x1000 := by omega
      simp [readCheck, this]

/-- The write checks of an access of `n` bytes at `a` (R55, R57). -/
theorem checkAll_write (a n : Nat) (hn : 0 < n) :
    checkAll writeCheck a n =
      if a < 0x200 then some (.writeProtected a)
      else if a + n ≤ 0x1000 then none
      else some (.addressOutOfRange (max a 0x1000)) := by
  split
  · next h => exact checkAll_eq_some (k := 0) hn (by simp) (by
      rw [Nat.add_zero, writeCheck, if_neg (by omega), if_pos h])
  · split
    · refine checkAll_eq_none.mpr fun j hj => ?_
      rw [writeCheck, if_neg (by omega), if_neg (by omega)]
    · refine checkAll_eq_some (k := 0x1000 - a) (by omega) (fun j hj => ?_) ?_
      · rw [writeCheck, if_neg (by omega), if_neg (by omega)]
      · have : a + (0x1000 - a) = max a 0x1000 := by omega
        simp [writeCheck, this]

/-! ### Reporting and completing -/

theorem finish_eq (s : State) : finish s = .next (s.report .ok) := rfl
theorem raise_eq (e : Status) (s : State) : raise e s = .next (s.report e) := rfl

@[simp] theorem State.report_ok_faultMark (s : State) : (s.report .ok).faultMark = s.faultMark := by
  simp

/-- Every state keeps all of its own parts. -/
theorem KeepsAllBut.refl (ps : List Part) (s : State) : KeepsAllBut ps s s := by
  intro q _
  cases q <;> simp [Keeps]

/-- Reporting `OK` keeps every part. -/
theorem State.report_ok_keeps (s : State) (q : Part) : Keeps s (s.report .ok) q := by
  cases q <;> simp [Keeps]

/-- Reporting any status keeps every part but the mark. -/
theorem State.report_keeps (s : State) (e : Status) : KeepsAllBut [.mark] s (s.report e) := by
  intro q hq
  cases q <;> simp_all [Keeps]

/-- What a raise leaves (60_exceptions.md R184, R187). -/
theorem State.report_raisedFrom (s : State) {e : Status} (he : e ≠ .ok) : RaisedFrom e s (s.report e) :=
  ⟨rfl, fun h => by simp [h, he], fun h => by simp [h], s.report_keeps e⟩

/-! ### Fetch -/

/-- In range, the fetch reads the big-endian word at `PC` (20_memory.md R56). -/
theorem fetch_ok (h : s.pc.toNat + 1 < 0x1000) : fetch s = .ok (s.wordAt s.pc.toNat) := by
  simp only [fetch, if_neg (Nat.not_le.mpr h), State.wordAt]

/-- Out of range, it raises and says the first byte that does not exist (R56). -/
theorem fetch_error (h : 0x1000 ≤ s.pc.toNat + 1) :
    fetch s = .error (.addressOutOfRange (max s.pc.toNat 0x1000)) := by
  simp only [fetch, if_pos h]

/-! ### The call stack -/

/-- A push with room: the slot at `SP` and `SP` (10_state.md R29). -/
theorem State.push_of_lt (w : Word) (h : s.sp.val < 16) :
    s.push w = some { s with stack := s.stack.set s.sp.val w h, sp := ⟨s.sp.val + 1, by omega⟩ } := by
  simp [State.push, h]

theorem State.push_full (w : Word) (h : s.sp = 16) : s.push w = none := by
  simp [State.push, h]

/-- A pop of a stack that holds an entry (R29, R30). -/
theorem State.pop_of_pos (h : 0 < s.sp.val) :
    s.pop = some (s.stack[s.sp.val - 1]'(by omega), { s with sp := ⟨s.sp.val - 1, by omega⟩ }) := by
  simp only [State.pop, dif_pos h]

theorem State.pop_empty (h : s.sp = 0) : s.pop = none := by
  simp [State.pop, h]

/-! ### The random byte -/

/-- Taking the random byte changes nothing but which byte comes next (00_scope.md R8). -/
theorem State.takeRnd_eq (s : State) :
    s.takeRnd = (match s.rndIn with | some r => r | none => Config.freeRnd s.draws,
      { s with rndIn := none, draws := if s.rndIn = none then s.draws + 1 else s.draws }) := by
  unfold State.takeRnd
  split
  · next h => simp [h]
  · next h => simp only [h]; cases s; simp_all

/-! ### Pixels -/

theorem Framebuffer.blank_pixel (p : Fin 64 × Fin 32) : Framebuffer.blank.pixel p = false := by
  simp [Framebuffer.blank, Framebuffer.pixel]

theorem Framebuffer.flip_pixel (f : Framebuffer) (p q : Fin 64 × Fin 32) :
    (f.flip p).pixel q = if q = p then !f.pixel q else f.pixel q := by
  obtain ⟨px, py⟩ := p
  obtain ⟨qx, qy⟩ := q
  simp only [Framebuffer.pixel, Framebuffer.flip, Fin.getElem_fin, Vector.getElem_set, Prod.mk.injEq,
    Fin.ext_iff]
  by_cases hy : (py : Nat) = qy
  · by_cases hx : (px : Nat) = qx
    · simp [hy, hx]
    · simp [hy, hx, Ne.symm hx]
  · simp [hy, Ne.symm hy]

/-- Flipping a list of distinct pixels flips exactly those (40_display.md R101). -/
theorem Framebuffer.flipAll_pixel {ps : List (Fin 64 × Fin 32)} (hn : ps.Nodup) (f : Framebuffer)
    (q : Fin 64 × Fin 32) : (f.flipAll ps).pixel q = if q ∈ ps then !f.pixel q else f.pixel q := by
  induction ps generalizing f with
  | nil => simp [Framebuffer.flipAll]
  | cons p ps ih =>
    have hp := List.nodup_cons.mp hn
    have : f.flipAll (p :: ps) = (f.flip p).flipAll ps := rfl
    rw [this, ih hp.2, Framebuffer.flip_pixel]
    by_cases h : q = p
    · subst h; simp [hp.1]
    · simp [h]

end Sys2Proof.Machine
end

