-- ==== Sys2Proof/Laws/Display.lean ====
section
/-! SUPPORT. The set of pixels a sprite covers (40_display.md R101 to R103): which pixels are in it, and
that none is in it twice. -/

namespace Sys2Proof.Machine

variable {edge : QuirkDrawEdge} {p : Fin 64 × Fin 32}

/-- Where a sprite pixel is placed, as numbers (R101 for CLIP, R102 for WRAP). -/
theorem placePixel_eq_some {px py : Nat} :
    placePixel edge px py = some p ↔
      match edge with
      | .clip => p.1.val = px ∧ p.2.val = py
      | .wrap => p.1.val = px % 64 ∧ p.2.val = py % 32 := by
  obtain ⟨⟨a, ha⟩, ⟨b, hb⟩⟩ := p
  cases edge with
  | clip =>
    simp only [placePixel]
    split
    · simp only [Option.some.injEq, Prod.mk.injEq, Fin.mk.injEq]; omega
    · simp only [false_iff, reduceCtorEq]; omega
  | wrap => simp only [placePixel, Option.some.injEq, Prod.mk.injEq, Fin.mk.injEq]; omega

theorem mem_rowPixels {x0 py : Nat} {b : Byte} :
    p ∈ rowPixels edge x0 py b ↔
      ∃ c, c < 8 ∧ spriteBit b c = true ∧ placePixel edge (x0 + c) py = some p := by
  simp only [rowPixels, List.mem_filterMap, List.mem_range]
  refine exists_congr fun c => and_congr_right fun _ => ?_
  split <;> simp_all

theorem mem_spritePixels {x0 y0 : Nat} {bs : List Byte} :
    p ∈ spritePixels edge x0 y0 bs ↔
      ∃ r c, ∃ h : r < bs.length, c < 8 ∧ spriteBit bs[r] c = true ∧
        placePixel edge (x0 + c) (y0 + r) = some p := by
  induction bs generalizing y0 with
  | nil => simp [spritePixels]
  | cons b bs ih =>
    rw [spritePixels, List.mem_append, mem_rowPixels, ih]
    constructor
    · rintro (⟨c, h8, hb, hp⟩ | ⟨r, c, hr, h8, hb, hp⟩)
      · exact ⟨0, c, by simp, h8, hb, hp⟩
      · exact ⟨r + 1, c, by simpa using hr, h8, hb, by rwa [show y0 + (r + 1) = y0 + 1 + r by omega]⟩
    · rintro ⟨_ | r, c, hr, h8, hb, hp⟩
      · exact Or.inl ⟨c, h8, hb, hp⟩
      · exact Or.inr ⟨r, c, by simpa using hr, h8, hb, by rwa [show y0 + 1 + r = y0 + (r + 1) by omega]⟩

/-- One sprite row covers no pixel twice. -/
theorem rowPixels_nodup (x0 py : Nat) (b : Byte) : (rowPixels edge x0 py b).Nodup := by
  refine List.pairwise_filterMap.mpr ((List.pairwise_lt_range (n := 8)).imp_of_mem ?_)
  intro c c' hc hc' hlt q hq q' hq' he
  subst he
  simp only [List.mem_range] at hc hc'
  split at hq <;> [skip; simp at hq]
  split at hq' <;> [skip; simp at hq']
  have h1 := placePixel_eq_some.mp hq
  have h2 := placePixel_eq_some.mp hq'
  cases edge <;> simp only at h1 h2 <;> omega

/-- A sprite of at most 32 rows covers no pixel twice (R101: the pixels of `P` are distinct). -/
theorem spritePixels_nodup (x0 y0 : Nat) (bs : List Byte) (h : bs.length ≤ 32) :
    (spritePixels edge x0 y0 bs).Nodup := by
  induction bs generalizing y0 with
  | nil => simp [spritePixels]
  | cons b bs ih =>
    simp only [List.length_cons] at h
    refine List.nodup_append.mpr ⟨rowPixels_nodup _ _ _, ih _ (by omega), fun q hq q' hq' he => ?_⟩
    subst he
    obtain ⟨c, -, -, h1⟩ := mem_rowPixels.mp hq
    obtain ⟨r, c', hr, -, -, h2⟩ := mem_spritePixels.mp hq'
    have h1 := placePixel_eq_some.mp h1
    have h2 := placePixel_eq_some.mp h2
    cases edge <;> simp only at h1 h2 <;> omega

/-! ### The set `P` of a `DXYN` -/

theorem placePixel_iff {px py : Nat} : placePixel edge px py = some p ↔ PlacedAt edge px py p := by
  rw [placePixel_eq_some]; cases edge <;> rfl

/-- The pixels drawn are the covered ones (R101, R103). -/
theorem State.mem_drawnPixels {s : State} {x y : Reg} {n : Nat} :
    p ∈ s.drawnPixels x y n ↔ SpriteCovers s x y n p := by
  simp only [State.drawnPixels, mem_spritePixels, State.readBytes_length, SpriteCovers, placePixel_iff,
    spriteBit, State.readBytes_getElem, State.dataBase, exists_prop]

theorem State.drawnPixels_nodup {s : State} {x y : Reg} {n : Nat} (h : n ≤ 32) :
    (s.drawnPixels x y n).Nodup :=
  spritePixels_nodup _ _ _ (by simpa using h)

/-- Some covered pixel is on. -/
theorem State.anyOn_drawnPixels {s : State} {x y : Reg} {n : Nat} {f : Framebuffer} :
    f.anyOn (s.drawnPixels x y n) = true ↔ ∃ q, SpriteCovers s x y n q ∧ f.pixel q = true := by
  simp only [Framebuffer.anyOn, List.any_eq_true, State.mem_drawnPixels]

/-- Everything a `DXYN` can answer (R101): the raise, or the flips with VF and NR. -/
theorem execDrw_eq (x y : Reg) (n : Nat) (s : State) :
    execDrw x y n s =
      if n = 0 ∨ s.i.toNat + n ≤ 0x1000 then
        finish (((s.setFb (s.fb.flipAll (s.drawnPixels x y n))).setV regF
          (flagByte (s.fb.anyOn (s.drawnPixels x y n)))).setNr true)
      else raise (.addressOutOfRange (max s.i.toNat 0x1000)) s := by
  by_cases h : n = 0 ∨ s.i.toNat + n ≤ 0x1000 <;> simp [execDrw, checkAll_read, State.dataBase, h]

end Sys2Proof.Machine
end

