-- ==== Sys2Proof/Laws/Operands.lean ====
section
/-! SUPPORT. One law per operand form, flag and store that says what it answers (43_alu.md R138 to R144;
44_index_memory.md R153 to R156; 42_skip.md R120, R127; 45_timer_input.md R171; 60_exceptions.md R192). -/

namespace Sys2Proof.Machine

variable {s t : State}

/-! ### Flags -/

theorem lowBitFlag_toNat (b : Byte) : (lowBitFlag b).toNat = b.toNat % 2 := by revert b; decide +kernel

theorem highBitFlag_toNat (b : Byte) : (highBitFlag b).toNat = b.toNat / 128 := by revert b; decide +kernel

theorem carryFlag_eq (a b : Byte) : carryFlag a b = if 255 < a.toNat + b.toNat then 1#8 else 0#8 := by
  simp [carryFlag, flagByte]

theorem noBorrowFlag_eq (a b : Byte) : noBorrowFlag a b = if b.toNat ≤ a.toNat then 1#8 else 0#8 := by
  simp [noBorrowFlag, flagByte]

/-! ### Operand forms -/

theorem zextByte_toNat (b : Byte) : (zextByte b).toNat = b.toNat := by simp [zextByte]; omega

theorem zextAddr_toNat (a : BitVec 12) : (zextAddr a).toNat = a.toNat := by simp [zextAddr]; omega

theorem countDown_toNat (b : Byte) : (countDown b).toNat = b.toNat - 1 := by revert b; decide +kernel

theorem keyNamed_of_eq {b : Byte} {k : Fin 16} (h : b.toNat = k.val) : keyNamed b = some k := by
  simp [keyNamed, h]

theorem keyNamed_of_gt {b : Byte} (h : 0xF < b.toNat) : keyNamed b = none := dif_neg (by omega)

/-- The lowest set key is the one below which none is set (R171). -/
theorem State.lowestKey_of_first {k : Fin 16} (h : s.key k = true) (hj : ∀ j, j < k → s.key j = false) :
    s.lowestKey = some k := by
  rw [State.lowestKey, List.find?_eq_some_iff_getElem]
  refine ⟨h, k.val, by simp, by simp, fun j hj' => ?_⟩
  simpa using hj _ (by rw [Fin.lt_def]; simpa using hj')

theorem State.lowestKey_of_none (h : ∀ k, s.key k = false) : s.lowestKey = none := by
  simp [State.lowestKey, h]

/-- `I` after a block move, under each quirk (R156). -/
theorem State.indexAfterMove_unchanged (x : Reg) (h : s.cfg.loadStoreI = .unchanged) :
    s.indexAfterMove x = s.i := by
  simp [State.indexAfterMove, h]

theorem State.indexAfterMove_increment (x : Reg) (h : s.cfg.loadStoreI = .increment) :
    (s.indexAfterMove x).toNat = (s.i.toNat + x.val + 1) % 65536 := by
  simp [State.indexAfterMove, h, BitVec.toNat_add, Nat.add_assoc]

@[simp] theorem decimalDigits_length (b : Byte) : (decimalDigits b).length = 3 := rfl

@[simp] theorem State.regBlock_length (x : Reg) : (s.regBlock x).length = x.val + 1 := by
  simp [State.regBlock, blockLength]

theorem State.regBlock_getElem (x k : Reg) (h : k.val < (s.regBlock x).length) :
    (s.regBlock x)[k.val] = s.getV k := by
  simp [State.regBlock, State.getV]

/-! ### Skips -/

/-- A skip completes, and only moves `PC` (R120). -/
theorem skipIf_eq (c : Bool) (s : State) : skipIf c s = .next ((if c then s.advance else s).report .ok) := rfl

/-! ### Stores at `I` -/

/-- Everything a store at `I` can answer (R153, R154; 20_memory.md R55, R57). -/
theorem storeAtI_eq (bs : List Byte) (s : State) (hl : 0 < bs.length) :
    storeAtI bs s =
      if s.i.toNat < 0x200 then .error (.writeProtected s.i.toNat)
      else if s.i.toNat + bs.length ≤ 0x1000 then .ok (s.writeBytes s.i.toNat bs)
      else .error (.addressOutOfRange (max s.i.toNat 0x1000)) := by
  simp only [storeAtI, State.dataBase, checkAll_write _ _ hl]
  by_cases h1 : s.i.toNat < 0x200
  · simp [h1]
  · by_cases h2 : s.i.toNat + bs.length ≤ 0x1000 <;> simp [h1, h2]

/-- A block write keeps everything but memory. -/
theorem State.writeBytes_keeps (s : State) (a : Nat) (bs : List Byte) :
    KeepsAllBut [.memory] s (s.writeBytes a bs) := by
  rw [State.writeBytes_eq]
  intro q hq
  cases q <;> simp_all [Keeps, State.getV, State.key, State.slot]

/-- A block write keeps every byte outside the block. -/
theorem State.writeBytes_keepsBytes (s : State) (a : Nat) (bs : List Byte) :
    KeepsBytesBut a bs.length s (s.writeBytes a bs) := by
  intro b hb
  rw [State.writeBytes_readByte, dif_neg (by omega)]

/-- Completing keeps what was kept. -/
theorem KeepsAllBut.report_ok {ps : List Part} (h : KeepsAllBut ps s t) :
    KeepsAllBut ps s (t.report .ok) := by
  intro q hq
  have := h q hq
  cases q <;> simp_all [Keeps]

end Sys2Proof.Machine
end

