-- ==== Sys2Proof/Laws/PerInstr.lean ====
section
/-! SUPPORT. A law per instruction, as syntax: the word the encoder gives lies in the instruction's own
row of the match and mask table (30_encoding.md R78). -/

namespace Sys2Proof.Laws.EncodesRow

/-- The word of `i` has the bits that its row of R78 fixes. -/
def Statement (i : Instr) : Prop := encode i &&& i.mask = i.matchWord

theorem cls : Statement .cls := rfl
theorem ret : Statement .ret := rfl
theorem jp (nnn : BitVec 12) : Statement (.jp nnn) := wordNNN_mask 0x1#4 nnn
theorem call (nnn : BitVec 12) : Statement (.call nnn) := wordNNN_mask 0x2#4 nnn
theorem seImm (x : Reg) (nn : Byte) : Statement (.seImm x nn) := wordXNN_mask_op 0x3#4 x nn
theorem sneImm (x : Reg) (nn : Byte) : Statement (.sneImm x nn) := wordXNN_mask_op 0x4#4 x nn
theorem seReg (x y : Reg) : Statement (.seReg x y) := wordXYN_mask_low 0x5#4 x y 0x0#4
theorem ldImm (x : Reg) (nn : Byte) : Statement (.ldImm x nn) := wordXNN_mask_op 0x6#4 x nn
theorem addImm (x : Reg) (nn : Byte) : Statement (.addImm x nn) := wordXNN_mask_op 0x7#4 x nn
theorem ldReg (x y : Reg) : Statement (.ldReg x y) := wordXYN_mask_low 0x8#4 x y 0x0#4
theorem orReg (x y : Reg) : Statement (.orReg x y) := wordXYN_mask_low 0x8#4 x y 0x1#4
theorem andReg (x y : Reg) : Statement (.andReg x y) := wordXYN_mask_low 0x8#4 x y 0x2#4
theorem xorReg (x y : Reg) : Statement (.xorReg x y) := wordXYN_mask_low 0x8#4 x y 0x3#4
theorem addReg (x y : Reg) : Statement (.addReg x y) := wordXYN_mask_low 0x8#4 x y 0x4#4
theorem sub (x y : Reg) : Statement (.sub x y) := wordXYN_mask_low 0x8#4 x y 0x5#4
theorem shr (x y : Reg) : Statement (.shr x y) := wordXYN_mask_low 0x8#4 x y 0x6#4
theorem subn (x y : Reg) : Statement (.subn x y) := wordXYN_mask_low 0x8#4 x y 0x7#4
theorem shl (x y : Reg) : Statement (.shl x y) := wordXYN_mask_low 0x8#4 x y 0xE#4
theorem sneReg (x y : Reg) : Statement (.sneReg x y) := wordXYN_mask_low 0x9#4 x y 0x0#4
theorem ldI (nnn : BitVec 12) : Statement (.ldI nnn) := wordNNN_mask 0xA#4 nnn
theorem jpV0 (nnn : BitVec 12) : Statement (.jpV0 nnn) := wordNNN_mask 0xB#4 nnn
theorem rnd (x : Reg) (nn : Byte) : Statement (.rnd x nn) := wordXNN_mask_op 0xC#4 x nn
theorem drw (x y : Reg) (n : Nat) : Statement (.drw x y n) := wordXYN_mask_op 0xD#4 x y (BitVec.ofNat 4 n)
theorem skp (x : Reg) : Statement (.skp x) := wordXNN_mask_low 0xE#4 x 0x9E#8
theorem sknp (x : Reg) : Statement (.sknp x) := wordXNN_mask_low 0xE#4 x 0xA1#8
theorem ldVxDt (x : Reg) : Statement (.ldVxDt x) := wordXNN_mask_low 0xF#4 x 0x07#8
theorem ldVxK (x : Reg) : Statement (.ldVxK x) := wordXNN_mask_low 0xF#4 x 0x0A#8
theorem ldDtVx (x : Reg) : Statement (.ldDtVx x) := wordXNN_mask_low 0xF#4 x 0x15#8
theorem ldStVx (x : Reg) : Statement (.ldStVx x) := wordXNN_mask_low 0xF#4 x 0x18#8
theorem addIVx (x : Reg) : Statement (.addIVx x) := wordXNN_mask_low 0xF#4 x 0x1E#8
theorem ldFVx (x : Reg) : Statement (.ldFVx x) := wordXNN_mask_low 0xF#4 x 0x29#8
theorem ldBVx (x : Reg) : Statement (.ldBVx x) := wordXNN_mask_low 0xF#4 x 0x33#8
theorem ldMemVx (x : Reg) : Statement (.ldMemVx x) := wordXNN_mask_low 0xF#4 x 0x55#8
theorem ldVxMem (x : Reg) : Statement (.ldVxMem x) := wordXNN_mask_low 0xF#4 x 0x65#8

end Sys2Proof.Laws.EncodesRow
end

