-- ==== Sys2Proof/Tests/Slice0.lean ====
section
/-! SUPPORT. Tests of the definitions. Expected values come from spec/: the encodings of 30_encoding.md
R75 and R78, and the vectors of 95_test_vectors.md, each named in its comment. Then, for each statement
that has hypotheses, a witness that meets them, clause by clause at the edges of their ranges. -/

namespace Sys2Proof.Tests

open Sys2Proof Sys2Proof.Machine

/-- One STEP of the word `w` placed where `s` fetches next. -/
def runWord (w : Nat) (s : State) : Result := step (s.withFetchWord 16 w)

/-- The result is a next state with the property. -/
def gives (r : Result) (p : State → Bool) : Bool :=
  match r with
  | .next t => p t
  | .fault _ => false
  | .refused _ => false

/-- The reset state with the three quirks at their alternatives (00_scope.md R9). -/
def quirky : State :=
  State.created { defaultConfig with shift := .inPlace, loadStoreI := .increment, drawEdge := .wrap }

/-- Key `k` alone set. -/
def oneKey (k : Fin 16) : Vector Bool 16 := (Vector.replicate 16 false).set k true

/-! ### Well-formedness -/

/-- A sprite of 16 rows does not fit the field `N`; one of 15 rows does. -/
theorem test_wellFormed_drw : ¬ WellFormed (.drw 0 0 16) ∧ WellFormed (.drw 0 0 15) := by decide

/-! ### Decoding: every instruction by a word written out from R75 and R78 -/

theorem test_decode_flow :
    decode 0b0000000011100000#16 = some .cls ∧ decode 0b0000000011101110#16 = some .ret ∧
    decode 0b0001001000110100#16 = some (.jp 0x234#12) ∧
    decode 0b0010001100000001#16 = some (.call 0x301#12) ∧
    decode 0b1011111111111110#16 = some (.jpV0 0xFFE#12) := by decide

theorem test_decode_skips :
    decode 0b0011001101000010#16 = some (.seImm 3 0x42#8) ∧
    decode 0b0100001101000010#16 = some (.sneImm 3 0x42#8) ∧
    decode 0b0101000100100000#16 = some (.seReg 1 2) ∧
    decode 0b1001000100100000#16 = some (.sneReg 1 2) ∧
    decode 0b1110010110011110#16 = some (.skp 5) ∧
    decode 0b1110010110100001#16 = some (.sknp 5) := by decide

theorem test_decode_alu :
    decode 0b0110000000001010#16 = some (.ldImm 0 0x0A#8) ∧
    decode 0b0111001000100000#16 = some (.addImm 2 0x20#8) ∧
    decode 0b1000101010110000#16 = some (.ldReg 0xA 0xB) ∧
    decode 0b1000101010110001#16 = some (.orReg 0xA 0xB) ∧
    decode 0b1000101010110010#16 = some (.andReg 0xA 0xB) ∧
    decode 0b1000101010110011#16 = some (.xorReg 0xA 0xB) ∧
    decode 0b1000101010110100#16 = some (.addReg 0xA 0xB) ∧
    decode 0b1000101010110101#16 = some (.sub 0xA 0xB) ∧
    decode 0b1000101010110110#16 = some (.shr 0xA 0xB) ∧
    decode 0b1000101010110111#16 = some (.subn 0xA 0xB) ∧
    decode 0b1000101010111110#16 = some (.shl 0xA 0xB) ∧
    decode 0b1100001100001111#16 = some (.rnd 3 0x0F#8) := by decide

theorem test_decode_index_display_timer :
    decode 0b1010001000010000#16 = some (.ldI 0x210#12) ∧
    decode 0b1101101010110101#16 = some (.drw 0xA 0xB 5) ∧
    decode 0b1111001100000111#16 = some (.ldVxDt 3) ∧
    decode 0b1111010100001010#16 = some (.ldVxK 5) ∧
    decode 0b1111000100010101#16 = some (.ldDtVx 1) ∧
    decode 0b1111001000011000#16 = some (.ldStVx 2) ∧
    decode 0b1111000000011110#16 = some (.addIVx 0) ∧
    decode 0b1111010000101001#16 = some (.ldFVx 4) ∧
    decode 0b1111001000110011#16 = some (.ldBVx 2) ∧
    decode 0b1111001101010101#16 = some (.ldMemVx 3) ∧
    decode 0b1111001101100101#16 = some (.ldVxMem 3) := by decide

/-- V-X5 to V-X12: words that are no instruction, rejected by name. -/
theorem test_decode_rejects :
    ([0x0000#16, 0x0123#16, 0x5121#16, 0x912F#16, 0x8008#16, 0x800F#16, 0xE09F#16, 0xE000#16, 0xF000#16,
      0xF0FF#16, 0xF01F#16, 0xFFFF#16, 0x00E1#16] : List Word).all (fun w => decode w == none) = true ∧
    decodeBytes [0x51#8, 0x21#8] = .error (.unknownOpcode 0x5121#16) ∧
    decodeBytes [0x60#8] = .error .truncated := by decide

/-- The first byte is the high byte of the word (20_memory.md R52). -/
theorem test_decodeTableWord :
    decodeTableWord 16 0x6A42 = some (.ldImm 0xA 0x42#8) ∧ decodeTableWord 16 0x426A = some (.sneImm 2 0x6A#8) := by
  decide

/-! ### The cycle -/

/-- Nothing placed: reset memory at 0x200 is the illegal word 0x0000 (V-X5; R187 for the mark). -/
theorem test_step_reset :
    gives (step State.reset) (fun t => t.pc == 0x202#16 && t.status == .unknownOpcode 0x0000#16 &&
      t.faultMark == some (.unknownOpcode 0x0000#16)) = true := by decide

/-- V-X1 and V-X4: the last fetchable address, and an odd one. -/
theorem test_step_edges :
    gives (runWord 0x1200 (State.reset.setPc 0xFFE#16)) (fun t => t.pc == 0x200#16 && t.status == .ok) = true ∧
    gives (runWord 0x6007 (State.reset.setPc 0x201#16)) (fun t => t.pc == 0x203#16 && t.getV 0 == 0x07#8) = true := by
  decide

/-- V-X2 and V-X3: a fetch past memory changes nothing. -/
theorem test_step_fetch_raises :
    gives (step (State.reset.setPc 0xFFF#16))
      (fun t => t.pc == 0xFFF#16 && t.status == .addressOutOfRange 0x1000) = true ∧
    gives (step (State.reset.setPc 0x1002#16))
      (fun t => t.pc == 0x1002#16 && t.status == .addressOutOfRange 0x1002) = true := by decide

/-! ### One instruction each -/

/-- V-D1. -/
theorem test_cls :
    gives (runWord 0x00E0 (State.reset.setFb (Framebuffer.blank.flip (63, 31))))
      (fun t => t.fb == Framebuffer.blank && t.nr && t.getV regF == 0#8) = true := by decide +kernel

/-- V-D5: WRAP at the corner, 24 pixels on columns 60 to 63 and 0 to 3 of rows 30, 31 and 0. -/
theorem test_drw_wraps :
    gives (runWord 0xD013 ((((quirky.setV 0 60#8).setV 1 30#8).setI 0x300#16).writeBytes 0x300
        [0xFF#8, 0xFF#8, 0xFF#8]))
      (fun t => t.fb.pixel (60, 30) && t.fb.pixel (3, 31) && t.fb.pixel (0, 0) && !t.fb.pixel (4, 0) &&
        !t.fb.pixel (59, 30) && t.getV regF == 0#8 && t.nr) = true := by decide +kernel

/-- V-D10: the position comes from VF before VF is written; glyph 0 at column 10. -/
theorem test_drw_position_from_vf :
    gives (runWord 0xDF15 (State.reset.setV regF 0x0A#8))
      (fun t => t.fb.pixel (10, 0) && t.fb.pixel (13, 1) && !t.fb.pixel (11, 1) && !t.fb.pixel (0, 0) &&
        t.getV regF == 0#8) = true := by decide +kernel

/-- V-F6 and V-F7. -/
theorem test_ret :
    gives (exec .ret { State.reset with sp := 1, stack := Vector.replicate 16 0x202#16 })
      (fun t => t.pc == 0x202#16 && t.sp == 0 && t.slot 0 == 0x202#16) = true ∧
    gives (runWord 0x00EE State.reset) (fun t => t.status == .stackUnderflow && t.pc == 0x202#16) = true := by
  decide

/-- V-F1. -/
theorem test_jp : gives (runWord 0x1234 State.reset) (fun t => t.pc == 0x234#16) = true := by decide

/-- V-E9 (90_conflicts.md C1): the pushed address is that of the next instruction. -/
theorem test_call :
    gives (runWord 0x2200 State.reset)
      (fun t => t.sp == 1 && t.slot 0 == 0x202#16 && t.pc == 0x200#16) = true := by decide

/-- V-F5. -/
theorem test_call_overflow :
    gives (runWord 0x2300 { State.reset with sp := 16 })
      (fun t => t.status == .stackOverflow && t.sp == 16 && t.pc == 0x202#16) = true := by decide

/-- V-F9 and V-F10: not reduced to 12 bits, and always V0. -/
theorem test_jpV0 :
    gives (runWord 0xBFFF (State.reset.setV 0 0xFF#8)) (fun t => t.pc == 0x10FE#16) = true ∧
    gives (runWord 0xB100 ((State.reset.setV 1 0x55#8).setV 0 0x02#8)) (fun t => t.pc == 0x102#16) = true := by
  decide

/-- V-K1, V-K3, V-K5, V-K8: each skip taken. -/
theorem test_skips_taken :
    gives (runWord 0x3342 (State.reset.setV 3 0x42#8)) (fun t => t.pc == 0x204#16) = true ∧
    gives (runWord 0x4342 (State.reset.setV 3 0x41#8)) (fun t => t.pc == 0x204#16) = true ∧
    gives (runWord 0x5120 ((State.reset.setV 1 7#8).setV 2 7#8)) (fun t => t.pc == 0x204#16) = true ∧
    gives (runWord 0x9120 ((State.reset.setV 1 7#8).setV 2 8#8)) (fun t => t.pc == 0x204#16) = true := by decide

/-- V-K2, V-K4, V-K6, V-K9: each skip not taken. -/
theorem test_skips_not_taken :
    gives (runWord 0x3342 (State.reset.setV 3 0x41#8)) (fun t => t.pc == 0x202#16) = true ∧
    gives (runWord 0x4342 (State.reset.setV 3 0x42#8)) (fun t => t.pc == 0x202#16) = true ∧
    gives (runWord 0x5120 ((State.reset.setV 1 7#8).setV 2 8#8)) (fun t => t.pc == 0x202#16) = true ∧
    gives (runWord 0x9110 (State.reset.setV 1 7#8)) (fun t => t.pc == 0x202#16) = true := by decide

/-- V-K10 and V-K14. -/
theorem test_skp :
    gives (runWord 0xE59E ((State.reset.setV 5 0x0A#8).setKeys (oneKey 0xA))) (fun t => t.pc == 0x204#16) = true ∧
    gives (runWord 0xE59E (State.reset.setV 5 0x10#8))
      (fun t => t.pc == 0x202#16 && t.status == .invalidKeyIndex 0x10#8) = true := by decide

/-- V-K12 and V-K13. -/
theorem test_sknp :
    gives (runWord 0xE5A1 (State.reset.setV 5 0x0A#8)) (fun t => t.pc == 0x204#16) = true ∧
    gives (runWord 0xE5A1 ((State.reset.setV 5 0x0A#8).setKeys (oneKey 0xA))) (fun t => t.pc == 0x202#16) = true := by
  decide

/-- V-E7. -/
theorem test_ldImm :
    gives (runWord 0x600A State.reset) (fun t => t.getV 0 == 10#8 && t.pc == 0x202#16) = true := by decide

/-- V-A3. -/
theorem test_addImm :
    gives (runWord 0x7220 ((State.reset.setV 2 0xF0#8).setV regF 7#8))
      (fun t => t.getV 2 == 0x10#8 && t.getV regF == 7#8) = true := by decide

/-- V-A5. -/
theorem test_ldReg :
    gives (runWord 0x8010 (State.reset.setV 1 0x33#8)) (fun t => t.getV 0 == 0x33#8) = true := by decide

/-- V-A6, V-A7, V-A8. -/
theorem test_logic :
    gives (runWord 0x8011 (((State.reset.setV 0 0x0F#8).setV 1 0xF0#8).setV regF 5#8))
      (fun t => t.getV 0 == 0xFF#8 && t.getV regF == 0#8) = true ∧
    gives (runWord 0x8012 (((State.reset.setV 0 0x3C#8).setV 1 0x0F#8).setV regF 1#8))
      (fun t => t.getV 0 == 0x0C#8 && t.getV regF == 0#8) = true ∧
    gives (runWord 0x8013 ((State.reset.setV 0 0xFF#8).setV 1 0x0F#8))
      (fun t => t.getV 0 == 0xF0#8 && t.getV regF == 0#8) = true := by decide

/-- V-A10 and V-A13: the carry wins in VF. -/
theorem test_addReg :
    gives (runWord 0x8014 ((State.reset.setV 0 0xFF#8).setV 1 1#8))
      (fun t => t.getV 0 == 0#8 && t.getV regF == 1#8) = true ∧
    gives (runWord 0x8F14 ((State.reset.setV regF 0xFF#8).setV 1 1#8)) (fun t => t.getV regF == 1#8) = true := by
  decide

/-- V-A14: with y = 0xF the operand is the old VF. -/
theorem test_addReg_y_is_vf :
    gives (runWord 0x80F4 ((State.reset.setV 0 0x10#8).setV regF 0xF0#8))
      (fun t => t.getV 0 == 0#8 && t.getV regF == 1#8) = true := by decide

/-- V-A15 and V-A16. -/
theorem test_sub :
    gives (runWord 0x8015 ((State.reset.setV 0 5#8).setV 1 7#8))
      (fun t => t.getV 0 == 0xFE#8 && t.getV regF == 0#8) = true ∧
    gives (runWord 0x8015 ((State.reset.setV 0 7#8).setV 1 7#8))
      (fun t => t.getV 0 == 0#8 && t.getV regF == 1#8) = true := by decide

/-- V-A19 and V-A22: the flag is the old bit 0 of Vx. -/
theorem test_shr :
    gives (runWord 0x8016 ((State.reset.setV 0 0x02#8).setV 1 0x11#8))
      (fun t => t.getV 0 == 0x08#8 && t.getV regF == 0#8) = true ∧
    gives (runWord 0x8016 ((quirky.setV 0 0x03#8).setV 1 0x10#8))
      (fun t => t.getV 0 == 0x01#8 && t.getV regF == 1#8) = true := by decide

/-- V-A23 and V-A24. -/
theorem test_subn :
    gives (runWord 0x8017 ((State.reset.setV 0 7#8).setV 1 5#8))
      (fun t => t.getV 0 == 0xFE#8 && t.getV regF == 0#8) = true ∧
    gives (runWord 0x8017 ((State.reset.setV 0 5#8).setV 1 7#8))
      (fun t => t.getV 0 == 2#8 && t.getV regF == 1#8) = true := by decide

/-- V-A25 and V-A28: the flag is the old bit 7 of Vx. -/
theorem test_shl :
    gives (runWord 0x801E ((State.reset.setV 0 0x80#8).setV 1 0x41#8))
      (fun t => t.getV 0 == 0x82#8 && t.getV regF == 1#8) = true ∧
    gives (runWord 0x801E ((quirky.setV 0 0x80#8).setV 1 0x41#8))
      (fun t => t.getV 0 == 0x00#8 && t.getV regF == 1#8) = true := by decide

/-- V-A29: the byte the STEP carries. -/
theorem test_rnd :
    gives (command (.step 0xA7#8) (State.reset.withFetchWord 16 0xC30F)) (fun t => t.getV 3 == 0x07#8) = true := by
  decide

/-- V-E8. -/
theorem test_ldI : gives (runWord 0xA210 State.reset) (fun t => t.i == 0x210#16 && t.pc == 0x202#16) = true := by
  decide

/-- V-S3 and V-S4. -/
theorem test_addIVx :
    gives (runWord 0xF01E ((State.reset.setI 0x0FFF#16).setV 0 2#8)) (fun t => t.i == 0x1001#16) = true ∧
    gives (runWord 0xF01E ((State.reset.setI 0xFFFF#16).setV 0 2#8)) (fun t => t.i == 0x0001#16) = true := by
  decide

/-- V-S5 and V-S7. -/
theorem test_ldFVx :
    gives (runWord 0xF429 (State.reset.setV 4 0x0A#8)) (fun t => t.i == 0x032#16) = true ∧
    gives (runWord 0xF429 (State.reset.setV 4 0xFF#8)) (fun t => t.i == 0x4FB#16) = true := by decide

/-- V-S8. -/
theorem test_ldBVx :
    gives (runWord 0xF233 ((State.reset.setV 2 234#8).setI 0x300#16))
      (fun t => t.readBytes 0x300 3 == [2#8, 3#8, 4#8] && t.i == 0x300#16) = true := by decide

/-- V-S13 and V-S14. -/
theorem test_ldBVx_raises :
    gives (runWord 0xF233 (State.reset.setI 0x1FF#16)) (fun t => t.status == .writeProtected 0x1FF) = true ∧
    gives (runWord 0xF233 ((State.reset.setV 2 234#8).setI 0xFFE#16))
      (fun t => t.status == .addressOutOfRange 0x1000 && t.readByte 0xFFE == 0#8) = true := by decide

/-- V-S16 and V-S17. -/
theorem test_ldMemVx :
    gives (runWord 0xF255 ((((State.reset.setV 0 1#8).setV 1 2#8).setV 2 3#8).setI 0x400#16))
      (fun t => t.readBytes 0x400 4 == [1#8, 2#8, 3#8, 0#8] && t.i == 0x400#16) = true ∧
    gives (runWord 0xF255 (quirky.setI 0x400#16)) (fun t => t.i == 0x403#16) = true := by decide

/-- V-S22 (the font may be read) and V-S23. -/
theorem test_ldVxMem :
    gives (runWord 0xF465 State.reset)
      (fun t => t.getV 0 == 0xF0#8 && t.getV 3 == 0x90#8 && t.getV 4 == 0xF0#8 && t.getV 5 == 0#8) = true ∧
    gives (runWord 0xF165 (State.reset.setI 0xFFF#16))
      (fun t => t.status == .addressOutOfRange 0x1000 && t.getV 0 == 0#8) = true := by decide

/-- V-T1. -/
theorem test_ldVxDt :
    gives (runWord 0xF307 (State.reset.setDt 0x3C#8)) (fun t => t.getV 3 == 0x3C#8 && t.dt == 0x3C#8) = true := by
  decide

/-- V-T6 and V-T7. -/
theorem test_ldVxK :
    gives (runWord 0xF50A (State.reset.setPc 0x220#16))
      (fun t => t.pc == 0x220#16 && t.getV 5 == 0#8 && t.status == .ok) = true ∧
    gives (runWord 0xF50A ((State.reset.setPc 0x220#16).setKeys ((oneKey 9).set 7 true)))
      (fun t => t.pc == 0x222#16 && t.getV 5 == 7#8) = true := by decide

/-- V-T2 and V-T3, the STEPs. -/
theorem test_ldDtVx_ldStVx :
    gives (runWord 0xF115 (State.reset.setV 1 0x3C#8)) (fun t => t.dt == 0x3C#8 && t.st == 0#8) = true ∧
    gives (runWord 0xF218 (State.reset.setV 2 5#8)) (fun t => t.st == 5#8 && t.toneOn && t.dt == 0#8) = true := by
  decide

/-! ### Commands -/

/-- V-T5 and V-E10. -/
theorem test_tick :
    gives (command .tick (State.reset.setDt 5#8)) (fun t => t.dt == 4#8 && t.st == 0#8) = true ∧
    gives (command .tick State.reset) (fun t => t.dt == 0#8 && t.st == 0#8) = true := by decide

/-- V-R4. -/
theorem test_load :
    gives (command (.load [0x12#8, 0x00#8]) ((State.reset.setPc 0x350#16).setV 0 9#8))
      (fun t => t.readBytes 0x200 2 == [0x12#8, 0#8] && t.pc == 0x350#16 && t.getV 0 == 9#8) = true := by decide

/-- V-T9 and V-R1. -/
theorem test_clearRedraw_reset :
    gives (command .clearRedraw (State.reset.setNr true)) (fun t => !t.nr) = true ∧
    gives (command .reset (State.reset.setI 5#16)) (fun t => t == State.reset) = true := by decide +kernel

/-- A write of the value an unlisted address reads as leaves no entry (the canonical form of memory). -/
theorem test_memory_canonical :
    Memory.write defaultFont (Memory.write defaultFont [] 0x200 5#8) 0x200 0#8 = [] ∧
    Memory.write defaultFont (Memory.write defaultFont [] 0x201 5#8) 0x200 6#8 = [(0x200, 6#8), (0x201, 5#8)] := by
  decide

/-! ### Witnesses: for each statement with hypotheses, states and operands that meet them -/

/-- The premise of the encoding clauses (R78): a word of each of the 34 rows. -/
theorem witness_IsEncoding :
    ([(0xFFFF#16, 0x00E0#16, 0x00E0#16), (0xFFFF#16, 0x00EE#16, 0x00EE#16), (0xF000#16, 0x1000#16, 0x1FFF#16),
      (0xF000#16, 0x2000#16, 0x2300#16), (0xF000#16, 0x3000#16, 0x3F42#16), (0xF000#16, 0x4000#16, 0x4042#16),
      (0xF00F#16, 0x5000#16, 0x5FF0#16), (0xF000#16, 0x6000#16, 0x6FFF#16), (0xF000#16, 0x7000#16, 0x7220#16),
      (0xF00F#16, 0x8000#16, 0x8AB0#16), (0xF00F#16, 0x8001#16, 0x8AB1#16), (0xF00F#16, 0x8002#16, 0x8AB2#16),
      (0xF00F#16, 0x8003#16, 0x8AB3#16), (0xF00F#16, 0x8004#16, 0x8AB4#16), (0xF00F#16, 0x8005#16, 0x8AB5#16),
      (0xF00F#16, 0x8006#16, 0x8AB6#16), (0xF00F#16, 0x8007#16, 0x8AB7#16), (0xF00F#16, 0x800E#16, 0x8ABE#16)]
        : List (Word × Word × Word)).all (fun r => r.2.2 &&& r.1 == r.2.1) = true ∧
    ([(0xF00F#16, 0x9000#16, 0x9120#16), (0xF000#16, 0xA000#16, 0xA210#16), (0xF000#16, 0xB000#16, 0xBFFF#16),
      (0xF000#16, 0xC000#16, 0xC30F#16), (0xF000#16, 0xD000#16, 0xDABF#16), (0xF0FF#16, 0xE09E#16, 0xEF9E#16),
      (0xF0FF#16, 0xE0A1#16, 0xE0A1#16), (0xF0FF#16, 0xF007#16, 0xF307#16), (0xF0FF#16, 0xF00A#16, 0xF50A#16),
      (0xF0FF#16, 0xF015#16, 0xF115#16), (0xF0FF#16, 0xF018#16, 0xF218#16), (0xF0FF#16, 0xF01E#16, 0xF01E#16),
      (0xF0FF#16, 0xF029#16, 0xF429#16), (0xF0FF#16, 0xF033#16, 0xF233#16), (0xF0FF#16, 0xF055#16, 0xFF55#16),
      (0xF0FF#16, 0xF065#16, 0xFF65#16)]
        : List (Word × Word × Word)).all (fun r => r.2.2 &&& r.1 == r.2.1) = true := by decide

theorem witness_StepFetchesAdvancesDecodesExecutes :
    0x1000 ≤ (State.reset.setPc 0xFFF#16).pc.toNat + 1 ∧
    ((State.reset.setPc 0xFFE#16).pc.toNat + 1 < 0x1000 ∧
      decode ((State.reset.setPc 0xFFE#16).wordAt 0xFFE) = none) ∧
    ((State.reset.withFetchWord 16 0x600A).pc.toNat + 1 < 0x1000 ∧
      decode ((State.reset.withFetchWord 16 0x600A).wordAt 0x200) = some (.ldImm 0 0x0A#8)) := by decide

theorem witness_DecodeOfEncodeIsIdentity : WellFormed (.drw 0xF 0xF 15) := by decide

theorem witness_EncodeOfDecodeIsIdentity : decode 0xD000#16 = some (.drw 0 0 0) := by decide

theorem witness_MatchAndMaskSelectOneRow :
    decode 0x600A#16 = some (.ldImm 0 0x0A#8) ∧
    0x600A#16 &&& (Instr.ldImm 0 0x0A#8).mask = (Instr.ldImm 0 0x0A#8).matchWord ∧
    0x600A#16 &&& (Instr.ldImm 5 0#8).mask = (Instr.ldImm 5 0#8).matchWord := by decide

/-- `I` at both edges of the draw that runs, and of the one that raises. -/
theorem witness_DrwFlipsSpritePixelsAndSetsCollision :
    (State.reset.setI 0xFF1#16).i.toNat + 15 ≤ 0x1000 ∧
    0x1000 < (State.reset.setI 0xFF2#16).i.toNat + 15 ∧ 0x1000 < (State.reset.setI 0x1000#16).i.toNat + 1 := by
  decide

/-- A covered pixel that is on, and a draw that covers none that is on. -/
theorem witness_DrwFlipsSpritePixelsAndSetsCollision_hit :
    (∃ p, SpriteCovers (State.reset.setFb (Framebuffer.blank.flip (0, 0))) 0 1 5 p ∧
      (State.reset.setFb (Framebuffer.blank.flip (0, 0))).fb.pixel p = true) ∧
    ¬ ∃ p, SpriteCovers State.reset 0 1 5 p ∧ State.reset.fb.pixel p = true :=
  ⟨⟨(0, 0), ⟨0, 0, by decide, by decide, by decide, ⟨by decide, by decide⟩⟩, by decide⟩,
    fun ⟨p, _, h⟩ => absurd (Framebuffer.blank_pixel p) (by rw [show Framebuffer.blank.pixel p = true from h]; decide)⟩

/-- A draw placed by V0, and one placed by VF that leaves VF as it was. -/
theorem witness_DrwTwiceRestoresFramebuffer :
    (∃ t u, exec (.drw 0 1 1) State.reset = .next t ∧ t.status = .ok ∧
      (t.getV 0).toNat % 64 = (State.reset.getV 0).toNat % 64 ∧
      (t.getV 1).toNat % 32 = (State.reset.getV 1).toNat % 32 ∧ exec (.drw 0 1 1) t = .next u) ∧
    ∃ t u, exec (.drw 15 1 1) State.reset = .next t ∧ t.status = .ok ∧
      (t.getV 15).toNat % 64 = (State.reset.getV 15).toNat % 64 ∧
      (t.getV 1).toNat % 32 = (State.reset.getV 1).toNat % 32 ∧ exec (.drw 15 1 1) t = .next u :=
  ⟨⟨_, _, rfl, rfl, by decide +kernel, by decide +kernel, rfl⟩,
    ⟨_, _, rfl, rfl, by decide +kernel, by decide +kernel, rfl⟩⟩

theorem witness_RetPopsNewestEntryIntoPc :
    ({ State.reset with sp := 1 }).sp.val = (0 : Fin 16).val + 1 ∧
    ({ State.reset with sp := 16 }).sp.val = (15 : Fin 16).val + 1 ∧ State.reset.sp = 0 := by decide

theorem witness_CallPushesAdvancedPcAndJumps :
    State.reset.sp.val = (0 : Fin 16).val ∧ ({ State.reset with sp := 15 }).sp.val = (15 : Fin 16).val ∧
    ({ State.reset with sp := 16 }).sp = 16 := by decide

theorem witness_SkipsComparingImmediate :
    State.reset.getV 0 = 0#8 ∧ State.reset.getV 0xF ≠ 1#8 := by decide

theorem witness_SkipsComparingRegisters :
    State.reset.getV 1 = State.reset.getV 2 ∧ (State.reset.setV 1 7#8).getV 1 ≠ (State.reset.setV 1 7#8).getV 2 ∧
    (0x5121#16 &&& 0xF000#16 = 0x5000#16 ∧ 0x5121#16 &&& 0xF#16 ≠ 0#16) ∧
    (0x912F#16 &&& 0xF000#16 = 0x9000#16 ∧ 0x912F#16 &&& 0xF#16 ≠ 0#16) := by decide

/-- The last key, set and clear, and the first number that names none. -/
theorem witness_SkipsOnKey :
    ((State.reset.setV 5 0xF#8).getV 5).toNat = (15 : Fin 16).val ∧
    (State.reset.setKeys (oneKey 15)).key 15 = true ∧ State.reset.key 15 = false ∧
    0xF < ((State.reset.setV 5 0x10#8).getV 5).toNat := by decide

/-- V0 = 0xFF, V1 = 1, V2 = 0, and `I` at `a`. -/
def regsAt (a : Word) : State := ((State.reset.setV 0 0xFF#8).setV 1 1#8).setI a

/-- The sums 256 and 255. -/
theorem witness_AddRegWritesSumThenCarry :
    (0 : Reg) ≠ regF ∧ 255 < ((regsAt 0#16).getV 0).toNat + ((regsAt 0#16).getV 1).toNat ∧
    ((regsAt 0#16).getV 0).toNat + ((regsAt 0#16).getV 2).toNat ≤ 255 := by decide

/-- Equal operands, and a difference of one the other way. -/
theorem witness_SubtractionsWriteDifferenceThenNoBorrow :
    ((regsAt 0#16).getV 2).toNat ≤ ((regsAt 0#16).getV 3).toNat ∧
    ((regsAt 0#16).getV 2).toNat < ((regsAt 0#16).getV 1).toNat := by decide

theorem witness_LogicWritesVxThenClearsVf : (14 : Reg) ≠ regF ∧ 7 < 8 := by decide

theorem witness_ShiftsWriteResultThenOldBitOfVx :
    (14 : Reg) ≠ regF ∧ State.reset.cfg.shift = .fromY ∧ quirky.cfg.shift = .inPlace := by decide

theorem witness_RndMasksTheStepsByte :
    ({ State.reset with rndIn := some 0xA7#8 }).rndIn = some 0xA7#8 := by decide

theorem witness_RndDrawsAFreeByteWhereNoneIsNamed : State.reset.rndIn = none := by decide

/-- `CXNN` at the last address an instruction can be fetched from. -/
theorem witness_RndStepMasksTheCommandsByte :
    ((State.reset.setPc 0xFFE#16).withFetchWord 16 0xC30F).pc.toNat + 1 < 0x1000 ∧
    decode (((State.reset.setPc 0xFFE#16).withFetchWord 16 0xC30F).wordAt 0xFFE) = some (.rnd 3 0x0F#8) := by
  decide

/-- A state with the invariant, whatever is in V0. -/
theorem regV0_inv (b : Byte) : (State.reset.setV 0 b).Inv := by
  refine ⟨Memory.wf_nil, fun _ _ => rfl, ?_, fun j => ?_⟩
  · show (0x200#16).toNat ≤ 0x10FE; decide
  · simp [State.slot, State.reset, State.created]

theorem witness_LdFPointsAtGlyph :
    (State.reset.setV 0 0xF#8).Inv ∧ ((State.reset.setV 0 0xF#8).getV 0).toNat = (15 : Fin 16).val :=
  ⟨regV0_inv _, by decide⟩

/-- `I` at the first and the last address where all three bytes may be written, and just past each. -/
theorem witness_LdBStoresDecimalDigits :
    (0x200 ≤ (regsAt 0x200#16).i.toNat ∧ (regsAt 0x200#16).i.toNat + 2 < 0x1000) ∧
    (0x200 ≤ (regsAt 0xFFD#16).i.toNat ∧ (regsAt 0xFFD#16).i.toNat + 2 < 0x1000) ∧
    0x1000 ≤ (regsAt 0xFFE#16).i.toNat + 2 ∧ (regsAt 0x1FF#16).i.toNat < 0x200 := by decide

theorem witness_LdMemStoresRegisterBlock :
    (0x200 ≤ (regsAt 0x200#16).i.toNat ∧ (regsAt 0x200#16).i.toNat + (0 : Reg).val < 0x1000) ∧
    (0x200 ≤ (regsAt 0xFF0#16).i.toNat ∧ (regsAt 0xFF0#16).i.toNat + (15 : Reg).val < 0x1000) ∧
    0x1000 ≤ (regsAt 0xFF1#16).i.toNat + (15 : Reg).val ∧ (regsAt 0x1FF#16).i.toNat < 0x200 ∧
    State.reset.cfg.loadStoreI = .unchanged ∧ quirky.cfg.loadStoreI = .increment ∧ (15 : Reg) ≤ 15 := by decide

theorem witness_LdVxLoadsRegisterBlock :
    (regsAt 0xFF0#16).i.toNat + (15 : Reg).val < 0x1000 ∧ (regsAt 0xFFF#16).i.toNat + (0 : Reg).val < 0x1000 ∧
    0x1000 ≤ (regsAt 0xFF1#16).i.toNat + (15 : Reg).val ∧ 0x1000 ≤ (regsAt 0x1000#16).i.toNat + (0 : Reg).val ∧
    State.reset.cfg.loadStoreI = .unchanged ∧ quirky.cfg.loadStoreI = .increment ∧ (0 : Reg) < 1 := by decide

theorem witness_StoreThenLoadRestoresRegisters :
    ∃ t u, (regsAt 0xFF0#16).cfg.loadStoreI = .unchanged ∧ 0x200 ≤ (regsAt 0xFF0#16).i.toNat ∧
      (regsAt 0xFF0#16).i.toNat + (15 : Reg).val ≤ 0xFFF ∧
      exec (.ldMemVx 15) (regsAt 0xFF0#16) = .next t ∧ KeepsAllBut [.regs] t u :=
  ⟨_, _, by decide, by decide, by decide, rfl, KeepsAllBut.refl _ _⟩

theorem witness_StoredBytesAreFetched :
    ∃ t, exec (.ldMemVx 1) (regsAt 0x300#16) = .next t ∧ t.status = .ok ∧ (1 : Reg) ≤ 1 ∧
      (1 : Reg).val = (0 : Reg).val + 1 ∧ (0x300#16).toNat = (regsAt 0x300#16).i.toNat + (0 : Reg).val :=
  ⟨_, rfl, rfl, by decide, by decide, by decide⟩

/-- Only the last key set; no key set. -/
theorem witness_LdKTakesLowestKeyOrWaits :
    ((State.reset.setKeys (oneKey 15)).key 15 = true ∧
      ∀ j, j < 15 → (State.reset.setKeys (oneKey 15)).key j = false) ∧
    ∀ k, State.reset.key k = false := by decide

theorem witness_WaitingStepMakesNoProgress :
    (State.reset.withFetchWord 16 0xF50A).pc.toNat + 1 < 0x1000 ∧
    decode ((State.reset.withFetchWord 16 0xF50A).wordAt 0x200) = some (.ldVxK 5) ∧
    ∀ k, (State.reset.withFetchWord 16 0xF50A).key k = false := by decide

/-- The largest image that fits, and the smallest that does not (V-E6). -/
theorem witness_LoadCopiesImageOrChangesNothing :
    (List.replicate 3584 0#8 : List Byte).length ≤ 3584 ∧ 3584 < (List.replicate 3585 0#8 : List Byte).length :=
  ⟨le_of_eq List.length_replicate, lt_of_lt_of_eq (by decide : 3584 < 3585) List.length_replicate.symm⟩

theorem witness_OnlyRndReadsTheStepsByte :
    ∀ x nn, decode (State.reset.wordAt State.reset.pc.toNat) ≠ some (.rnd x nn) := by
  rw [show decode (State.reset.wordAt State.reset.pc.toNat) = none by decide]
  simp

theorem witness_FreeStepIsAStepCommand :
    ∃ t, (State.reset.withFetchWord 16 0xC30F).rndIn = none ∧
      step (State.reset.withFetchWord 16 0xC30F) = .next t :=
  ⟨_, rfl, rfl⟩

/-- A mark already set; none set and a command that reports `OK`; none set and one that does not. -/
theorem witness_EveryCommandGoesOnAndMarksFirstFault :
    (State.reset.report .stackOverflow).faultMark = some .stackOverflow ∧ State.reset.faultMark = none ∧
    (∃ t, command .tick State.reset = .next t ∧ t.status = .ok) ∧
    ∃ t, command (.step 0#8) State.reset = .next t ∧ t.status ≠ .ok :=
  ⟨by decide, by decide, ⟨_, rfl, rfl⟩, ⟨_, rfl, by decide⟩⟩

theorem witness_RaisingStepChangesOnlyPc :
    (∃ t, step State.reset = .next t ∧ t.status ≠ .ok ∧ State.reset.pc.toNat + 1 < 0x1000) ∧
    ∃ t, step (State.reset.setPc 0xFFF#16) = .next t ∧ t.status ≠ .ok ∧
      0x1000 ≤ (State.reset.setPc 0xFFF#16).pc.toNat + 1 :=
  ⟨⟨_, rfl, by decide, by decide⟩, ⟨_, rfl, by decide, by decide⟩⟩

theorem witness_StatusesAreTheTabledOnes :
    (∃ t, exec .ret State.reset = .next t ∧ Status.stackUnderflow ≠ .ok ∧ t.status = .stackUnderflow) ∧
    (∃ t, 0x1000 ≤ (State.reset.setPc 0xFFF#16).pc.toNat + 1 ∧ step (State.reset.setPc 0xFFF#16) = .next t) ∧
    ∃ t, State.reset.pc.toNat + 1 < 0x1000 ∧ decode (State.reset.wordAt 0x200) = none ∧
      step State.reset = .next t :=
  ⟨⟨_, rfl, by decide, by decide⟩, ⟨_, by decide, rfl⟩, ⟨_, by decide, by decide, rfl⟩⟩

theorem witness_FetchFaultRepeats :
    0x1000 ≤ (State.reset.setPc 0xFFF#16).pc.toNat + 1 ∧
    ∃ t, Command.tick ≠ .reset ∧ (∀ r, Command.tick ≠ .step r) ∧ command .tick State.reset = .next t :=
  ⟨by decide, _, by decide, by simp, rfl⟩

theorem witness_PcFollowsTheTable :
    (∃ t, 0x1000 ≤ (State.reset.setPc 0xFFF#16).pc.toNat + 1 ∧ step (State.reset.setPc 0xFFF#16) = .next t) ∧
    (∃ t, State.reset.pc.toNat + 1 < 0x1000 ∧ decode (State.reset.wordAt 0x200) = none ∧
      step State.reset = .next t) ∧
    ∃ t, decode ((State.reset.withFetchWord 16 0x1234).wordAt 0x200) = some (.jp 0x234#12) ∧
      step (State.reset.withFetchWord 16 0x1234) = .next t :=
  ⟨⟨_, by decide, rfl⟩, ⟨_, by decide, by decide, rfl⟩, ⟨_, by decide, rfl⟩⟩

theorem witness_InstructionsStayInTheirParts : ∃ t, exec .cls State.reset = .next t := ⟨_, rfl⟩

theorem witness_RegistersWrittenAreTheTabledOnes :
    ∃ t, exec (.addReg 0 1) State.reset = .next t ∧ ¬ WritesReg (.addReg 0 1) 14 :=
  ⟨_, rfl, by simp [WritesReg, regF]⟩

theorem witness_RegistersNotReadHaveNoInfluence :
    ∃ t, ¬ ReadsReg quirky.cfg (.shr 0 1) 1 ∧ exec (.shr 0 1) quirky = .next t :=
  ⟨_, by simp [ReadsReg, quirky, State.created], rfl⟩

/-- `FX55` that moves and `FX65` that raises, under `I_INCREMENT`. -/
theorem witness_IncrementQuirkMovesIndexPastTheBlock :
    quirky.cfg.loadStoreI = .increment ∧
    (∃ t, exec (.ldMemVx 0) (quirky.setI 0x200#16) = .next t ∧ t.status = .ok) ∧
    ∃ t, exec (.ldVxMem 1) (quirky.setI 0xFFF#16) = .next t ∧ t.status ≠ .ok :=
  ⟨by decide, ⟨_, rfl, rfl⟩, ⟨_, rfl, by decide⟩⟩

/-- A shift read in another configuration of the same font and the same shift quirk. -/
theorem witness_QuirksReachOnlyTheirInstructions :
    ∃ t, ({ defaultConfig with drawEdge := .wrap } : Config).font = State.reset.cfg.font ∧
      ({ defaultConfig with drawEdge := .wrap } : Config).shift = State.reset.cfg.shift ∧
      exec (.shr 0 1) State.reset = .next t :=
  ⟨_, rfl, rfl, rfl⟩

/-- With one entry held, the second slot may hold anything. -/
theorem witness_StaleSlotsHaveNoInfluence :
    ∃ t, (∀ j : Fin 16, j.val < ({ State.reset with sp := 1 }).sp.val →
        ((Vector.replicate 16 0#16).set 1 7#16)[j] = ({ State.reset with sp := 1 }).slot j) ∧
      exec .ret { State.reset with sp := 1 } = .next t :=
  ⟨_, by decide, rfl⟩

theorem witness_PopReturnsThePushedEntry :
    ({ State.reset with sp := 15 }).sp.val < 16 ∧ ({ State.reset with sp := 16 }).sp = 16 ∧ State.reset.sp = 0 := by
  decide

theorem witness_BytesBelowProgramNeverChange : ∃ t, step State.reset = .next t ∧ 0x1FF < 0x200 :=
  ⟨_, rfl, by decide⟩

/-- V-F2: `1200` at 0x200. -/
theorem witness_ParkedStateIsAFixedPoint : (State.reset.withFetchWord 16 0x1200).parked :=
  ⟨by decide, by decide⟩

theorem witness_StepKeepsInvariant :
    ∃ t, (State.reset.setV 0 0#8).Inv ∧ step (State.reset.setV 0 0#8) = .next t :=
  ⟨_, regV0_inv _, rfl⟩

theorem witness_EveryScheduleKeepsInvariant : (State.reset.setV 0 0#8).Inv := regV0_inv _

end Sys2Proof.Tests
end

section
/-! SUPPORT. Proofs of the statements of 00_scope.md: the pseudo-random byte (R8) and the quirk
parameters (R9). The first part says how a meaning and a step can end; the second that the configuration
and the two fields of the random byte pass through every instruction that has no business with them
(`exec_withEnv`). The statements follow from the two. -/

namespace Sys2Proof.Machine

variable {i : Instr} {s t : State} {c : Config} {r : Option Byte} {n : Nat}

/-! ### How a meaning and a step end -/

/-- The two ways a meaning ends from `s`: completed, with the configuration and the fault mark it was
handed, or raised, from the very state it was handed (20_memory.md R57; 60_exceptions.md R183, R184). -/
inductive Ends (s : State) : Result → Prop where
  | finished (t : State) (cfg : t.cfg = s.cfg) (mark : t.faultMark = s.faultMark) : Ends s (finish t)
  | raised (e : Status) (he : e ≠ .ok) : Ends s (raise e s)

theorem Ends.next {a : Result} (h : Ends s a) : ∃ t, a = .next t := by
  cases h with
  | finished t => exact ⟨_, finish_eq t⟩
  | raised e => exact ⟨_, raise_eq e s⟩

/-- No meaning writes the configuration (log entry 3). -/
theorem Ends.cfg_eq (h : Ends s (.next t)) : t.cfg = s.cfg := by
  generalize ha : (Host.Outcome.next t : Result) = a at h
  cases h with
  | finished u hc => cases ha; exact hc
  | raised e => cases ha; rfl

theorem skipIf_ends (b : Bool) (s : State) : Ends s (skipIf b s) := .finished _ (by cases b <;> rfl) (by cases b <;> rfl)

theorem skipIfKey_ends (b : Bool) (x : Reg) (s : State) : Ends s (skipIfKey b x s) := by
  unfold skipIfKey
  cases keyNamed (s.getV x) with
  | none => exact .raised _ nofun
  | some k => exact skipIf_ends _ s

theorem execRet_ends (s : State) : Ends s (execRet s) := by
  unfold execRet State.pop
  by_cases h : 0 < s.sp.val
  · rw [dif_pos h]; exact .finished _ rfl rfl
  · rw [dif_neg h]; exact .raised _ nofun

theorem execCall_ends (nnn : BitVec 12) (s : State) : Ends s (execCall nnn s) := by
  unfold execCall State.push
  by_cases h : s.sp.val < 16
  · rw [dif_pos h]; exact .finished _ rfl rfl
  · rw [dif_neg h]; exact .raised _ nofun

theorem execRnd_ends (x : Reg) (nn : Byte) (s : State) : Ends s (execRnd x nn s) :=
  .finished _ (by rw [State.takeRnd_eq]; rfl) (by rw [State.takeRnd_eq]; rfl)

theorem execDrw_ends (x y : Reg) (n : Nat) (s : State) : Ends s (execDrw x y n s) := by
  rw [execDrw_eq]
  split
  · exact .finished _ rfl rfl
  · exact .raised _ nofun

theorem execLdVxK_ends (x : Reg) (s : State) : Ends s (execLdVxK x s) := by
  unfold execLdVxK
  cases s.lowestKey with
  | none => exact .finished _ rfl rfl
  | some k => exact .finished _ rfl rfl

/-- A store at `I` raises a status other than `OK`, or changes memory only. -/
theorem storeAtI_ends (bs : List Byte) (s : State) (hl : 0 < bs.length) :
    (∃ e, e ≠ .ok ∧ storeAtI bs s = .error e) ∨ storeAtI bs s = .ok (s.writeBytes s.i.toNat bs) := by
  rw [storeAtI_eq bs s hl]
  split
  · exact .inl ⟨.writeProtected _, nofun, rfl⟩
  · split
    · exact .inr rfl
    · exact .inl ⟨.addressOutOfRange _, nofun, rfl⟩

theorem State.writeBytes_cfg (s : State) (a : Nat) (bs : List Byte) : (s.writeBytes a bs).cfg = s.cfg :=
  s.writeBytes_keeps a bs .config (by decide)

theorem State.writeBytes_faultMark (s : State) (a : Nat) (bs : List Byte) :
    (s.writeBytes a bs).faultMark = s.faultMark :=
  s.writeBytes_keeps a bs .mark (by decide)

theorem execLdBVx_ends (x : Reg) (s : State) : Ends s (execLdBVx x s) := by
  unfold execLdBVx
  obtain ⟨e, he, h⟩ | h := storeAtI_ends (decimalDigits (s.getV x)) s (by simp)
  · rw [h]; exact .raised e he
  · rw [h]; exact .finished _ (s.writeBytes_cfg _ _) (s.writeBytes_faultMark _ _)

theorem execLdMemVx_ends (x : Reg) (s : State) : Ends s (execLdMemVx x s) := by
  unfold execLdMemVx
  obtain ⟨e, he, h⟩ | h := storeAtI_ends (s.regBlock x) s (by simp)
  · rw [h]; exact .raised e he
  · rw [h]; exact .finished _ (s.writeBytes_cfg _ _) (s.writeBytes_faultMark _ _)

/-- Everything an `FX65` can answer (44_index_memory.md R155, R156; 20_memory.md R54, R57). -/
theorem execLdVxMem_eq (x : Reg) (s : State) :
    execLdVxMem x s =
      if s.i.toNat + blockLength x ≤ 0x1000 then
        finish ((s.setRegs (s.loadedRegs x s.i.toNat)).setI (s.indexAfterMove x))
      else raise (.addressOutOfRange (max s.i.toNat 0x1000)) s := by
  have hx : blockLength x ≠ 0 := by simp [blockLength]
  by_cases h : s.i.toNat + blockLength x ≤ 0x1000 <;>
    simp [execLdVxMem, checkAll_read, State.dataBase, hx, h]

theorem execLdVxMem_ends (x : Reg) (s : State) : Ends s (execLdVxMem x s) := by
  rw [execLdVxMem_eq]
  split
  · exact .finished _ (by simp only [State.setI_cfg, State.setRegs_cfg])
      (by simp only [State.setI_faultMark, State.setRegs_faultMark])
  · exact .raised _ nofun

/-- Every instruction completes or raises. -/
theorem exec_ends (i : Instr) (s : State) : Ends s (exec i s) := by
  cases i with
  | cls | jp | ldImm | addImm | ldReg | orReg | andReg | xorReg | addReg | sub | shr | subn | shl | ldI
  | jpV0 | ldVxDt | ldDtVx | ldStVx | addIVx | ldFVx => exact .finished _ rfl rfl
  | seImm | sneImm | seReg | sneReg => exact skipIf_ends _ s
  | skp x | sknp x => exact skipIfKey_ends _ x s
  | ret => exact execRet_ends s
  | call nnn => exact execCall_ends nnn s
  | rnd x nn => exact execRnd_ends x nn s
  | drw x y n => exact execDrw_ends x y n s
  | ldVxK x => exact execLdVxK_ends x s
  | ldBVx x => exact execLdBVx_ends x s
  | ldMemVx x => exact execLdMemVx_ends x s
  | ldVxMem x => exact execLdVxMem_ends x s

/-- A fetch past memory (20_memory.md R56). -/
theorem step_of_fetch_fault (h : 0x1000 ≤ s.pc.toNat + 1) :
    step s = raise (.addressOutOfRange (max s.pc.toNat 0x1000)) s := by
  simp only [step, fetch_error h]

/-- An illegal word (30_encoding.md R72). -/
theorem step_of_illegal (h : s.pc.toNat + 1 < 0x1000) (hd : decode (s.wordAt s.pc.toNat) = none) :
    step s = raise (.unknownOpcode (s.wordAt s.pc.toNat)) s.advance := by
  simp only [step, fetch_ok h, hd]

/-- A word that is an instruction (R71). -/
theorem step_of_decode (h : s.pc.toNat + 1 < 0x1000) (hd : decode (s.wordAt s.pc.toNat) = some i) :
    step s = exec i s.advance := by
  simp only [step, fetch_ok h, hd]

/-- A STEP ends as a meaning ends, from the state before or after the advance. -/
theorem step_ends (s : State) : Ends s (step s) ∨ Ends s.advance (step s) := by
  by_cases h : 0x1000 ≤ s.pc.toNat + 1
  · rw [step_of_fetch_fault h]
    exact .inl (.raised _ nofun)
  · have h := Nat.lt_of_not_le h
    cases hd : decode (s.wordAt s.pc.toNat) with
    | none => rw [step_of_illegal h hd]; exact .inr (.raised _ nofun)
    | some i => rw [step_of_decode h hd]; exact .inr (exec_ends i s.advance)

/-- Every STEP has a next state (60_exceptions.md R183, R186). -/
theorem step_next (s : State) : ∃ t, step s = .next t :=
  (step_ends s).elim Ends.next Ends.next

/-- No STEP writes the configuration (log entry 3). -/
theorem step_cfg (h : step s = .next t) : t.cfg = s.cfg := by
  have he := step_ends s
  rw [h] at he
  exact he.elim Ends.cfg_eq fun ha => ha.cfg_eq

/-! ### The configuration and the random byte pass through -/

/-- `s` with another configuration and other fields of the random byte. -/
def State.withEnv (s : State) (c : Config) (r : Option Byte) (n : Nat) : State :=
  { s with cfg := c, rndIn := r, draws := n }

/-- The answer with another configuration and other fields of the random byte in its state. -/
def Result.withEnv (c : Config) (r : Option Byte) (n : Nat) : Result → Result
  | .next t => .next (t.withEnv c r n)
  | .fault f => .fault f
  | .refused f => .refused f

/-- Two configurations hold one font and agree on each quirk that 00_scope.md R9 names for `i`. -/
structure QuirksAgree (i : Instr) (c d : Config) : Prop where
  font : c.font = d.font
  shift : ∀ x y, i = .shr x y ∨ i = .shl x y → c.shift = d.shift
  loadStoreI : ∀ x, i = .ldMemVx x ∨ i = .ldVxMem x → c.loadStoreI = d.loadStoreI
  drawEdge : ∀ x y k, i = .drw x y k → c.drawEdge = d.drawEdge

theorem QuirksAgree.refl (i : Instr) (c : Config) : QuirksAgree i c c :=
  ⟨rfl, fun _ _ _ => rfl, fun _ _ => rfl, fun _ _ _ _ => rfl⟩

section
variable (hf : c.font = s.cfg.font)
include hf

theorem State.withEnv_readByte (a : Nat) : (s.withEnv c r n).readByte a = s.readByte a :=
  congrArg (fun f => Memory.read f s.mem a) hf

theorem State.withEnv_readBytes (a k : Nat) : (s.withEnv c r n).readBytes a k = s.readBytes a k := by
  simp only [State.readBytes, State.withEnv_readByte hf]

theorem State.withEnv_writeByte (a : Nat) (b : Byte) :
    (s.withEnv c r n).writeByte a b = (s.writeByte a b).withEnv c r n :=
  congrArg (fun f => ({ s with mem := Memory.write f s.mem a b } : State).withEnv c r n) hf

theorem State.withEnv_writeBytes (a : Nat) (bs : List Byte) :
    (s.withEnv c r n).writeBytes a bs = (s.writeBytes a bs).withEnv c r n := by
  induction bs generalizing a s with
  | nil => rfl
  | cons b bs ih =>
    rw [State.writeBytes, State.withEnv_writeByte hf, ih (s := s.writeByte a b) hf, State.writeBytes]

theorem State.withEnv_loadedRegs (x : Reg) (a : Nat) :
    (s.withEnv c r n).loadedRegs x a = s.loadedRegs x a := by
  simp only [State.loadedRegs, State.withEnv_readByte hf]
  rfl

theorem State.withEnv_drawnPixels (h : c.drawEdge = s.cfg.drawEdge) (x y : Reg) (k : Nat) :
    (s.withEnv c r n).drawnPixels x y k = s.drawnPixels x y k := by
  simp only [State.drawnPixels, State.withEnv_readBytes hf]
  exact congrArg (fun e => spritePixels e _ _ _) h

theorem storeAtI_withEnv (bs : List Byte) :
    storeAtI bs (s.withEnv c r n) = (storeAtI bs s).map (·.withEnv c r n) := by
  have h : (s.withEnv c r n).dataBase = s.dataBase := rfl
  unfold storeAtI
  rw [h, State.withEnv_writeBytes hf]
  cases checkAll writeCheck s.dataBase bs.length <;> rfl

end

theorem State.withEnv_shiftOperand (h : c.shift = s.cfg.shift) (x y : Reg) :
    (s.withEnv c r n).shiftOperand x y = s.shiftOperand x y := by
  simp only [State.shiftOperand, State.withEnv, h]
  rfl

theorem State.withEnv_indexAfterMove (h : c.loadStoreI = s.cfg.loadStoreI) (x : Reg) :
    (s.withEnv c r n).indexAfterMove x = s.indexAfterMove x := by
  simp only [State.indexAfterMove, State.withEnv, h]

theorem skipIf_withEnv (b : Bool) : skipIf b (s.withEnv c r n) = Result.withEnv c r n (skipIf b s) := by
  cases b <;> rfl

theorem skipIfKey_withEnv (b : Bool) (x : Reg) :
    skipIfKey b x (s.withEnv c r n) = Result.withEnv c r n (skipIfKey b x s) := by
  have h : (s.withEnv c r n).getV x = s.getV x := rfl
  unfold skipIfKey
  rw [h]
  cases keyNamed (s.getV x) with
  | none => rfl
  | some k => exact skipIf_withEnv _

theorem execRet_withEnv : execRet (s.withEnv c r n) = Result.withEnv c r n (execRet s) := by
  by_cases h : 0 < s.sp.val
  · have h' : 0 < (s.withEnv c r n).sp.val := h
    simp only [execRet, State.pop_of_pos h, State.pop_of_pos h']
    rfl
  · have h : s.sp = 0 := by omega
    have h' : (s.withEnv c r n).sp = 0 := h
    simp only [execRet, State.pop_empty h, State.pop_empty h']
    rfl

theorem execCall_withEnv (nnn : BitVec 12) :
    execCall nnn (s.withEnv c r n) = Result.withEnv c r n (execCall nnn s) := by
  by_cases h : s.sp.val < 16
  · have h' : (s.withEnv c r n).sp.val < 16 := h
    simp only [execCall, State.push_of_lt _ h, State.push_of_lt _ h']
    rfl
  · have h : s.sp = 16 := by omega
    have h' : (s.withEnv c r n).sp = 16 := h
    simp only [execCall, State.push_full _ h, State.push_full _ h']
    rfl

theorem execLdVxK_withEnv (x : Reg) :
    execLdVxK x (s.withEnv c r n) = Result.withEnv c r n (execLdVxK x s) := by
  have h : (s.withEnv c r n).lowestKey = s.lowestKey := rfl
  unfold execLdVxK
  rw [h]
  cases s.lowestKey <;> rfl

theorem execShr_withEnv (h : c.shift = s.cfg.shift) (x y : Reg) :
    execShr x y (s.withEnv c r n) = Result.withEnv c r n (execShr x y s) := by
  unfold execShr
  rw [State.withEnv_shiftOperand h]
  rfl

theorem execShl_withEnv (h : c.shift = s.cfg.shift) (x y : Reg) :
    execShl x y (s.withEnv c r n) = Result.withEnv c r n (execShl x y s) := by
  unfold execShl
  rw [State.withEnv_shiftOperand h]
  rfl

section
variable (hf : c.font = s.cfg.font)
include hf

theorem execDrw_withEnv (h : c.drawEdge = s.cfg.drawEdge) (x y : Reg) (k : Nat) :
    execDrw x y k (s.withEnv c r n) = Result.withEnv c r n (execDrw x y k s) := by
  have hi : (s.withEnv c r n).i = s.i := rfl
  rw [execDrw_eq, execDrw_eq, State.withEnv_drawnPixels hf h, hi]
  split <;> rfl

theorem execLdBVx_withEnv (x : Reg) :
    execLdBVx x (s.withEnv c r n) = Result.withEnv c r n (execLdBVx x s) := by
  have h : (s.withEnv c r n).getV x = s.getV x := rfl
  unfold execLdBVx
  rw [storeAtI_withEnv hf, h]
  cases storeAtI (decimalDigits (s.getV x)) s <;> rfl

theorem execLdMemVx_withEnv (h : c.loadStoreI = s.cfg.loadStoreI) (x : Reg) :
    execLdMemVx x (s.withEnv c r n) = Result.withEnv c r n (execLdMemVx x s) := by
  have hb : (s.withEnv c r n).regBlock x = s.regBlock x := rfl
  unfold execLdMemVx
  rw [storeAtI_withEnv hf, State.withEnv_indexAfterMove h, hb]
  cases storeAtI (s.regBlock x) s <;> rfl

theorem execLdVxMem_withEnv (h : c.loadStoreI = s.cfg.loadStoreI) (x : Reg) :
    execLdVxMem x (s.withEnv c r n) = Result.withEnv c r n (execLdVxMem x s) := by
  have hi : (s.withEnv c r n).i = s.i := rfl
  rw [execLdVxMem_eq, execLdVxMem_eq, State.withEnv_loadedRegs hf, State.withEnv_indexAfterMove h, hi]
  split <;> rfl

end

/-- The configuration and the fields of the random byte pass through every instruction but `CXNN`, where
the two configurations agree on what R9 names for it (00_scope.md R8, R9). -/
theorem exec_withEnv (hr : ∀ x nn, i ≠ .rnd x nn) (hq : QuirksAgree i c s.cfg) :
    exec i (s.withEnv c r n) = Result.withEnv c r n (exec i s) := by
  obtain ⟨hf, hs, hl, hd⟩ := hq
  cases i with
  | rnd x nn => exact absurd rfl (hr x nn)
  | cls | jp | ldImm | addImm | ldReg | orReg | andReg | xorReg | addReg | sub | subn | ldI | jpV0
  | ldVxDt | ldDtVx | ldStVx | addIVx | ldFVx => rfl
  | seImm | sneImm | seReg | sneReg => exact skipIf_withEnv _
  | skp x | sknp x => exact skipIfKey_withEnv _ x
  | ret => exact execRet_withEnv
  | call nnn => exact execCall_withEnv nnn
  | ldVxK x => exact execLdVxK_withEnv x
  | shr x y => exact execShr_withEnv (hs x y (.inl rfl)) x y
  | shl x y => exact execShl_withEnv (hs x y (.inr rfl)) x y
  | drw x y k => exact execDrw_withEnv hf (hd x y k rfl) x y k
  | ldBVx x => exact execLdBVx_withEnv hf x
  | ldMemVx x => exact execLdMemVx_withEnv hf (hl x (.inl rfl)) x
  | ldVxMem x => exact execLdVxMem_withEnv hf (hl x (.inr rfl)) x

/-- Every instruction but `CXNN` leaves the fields of the random byte alone: with the fields it has, a
state is its own `withEnv`, so `exec_withEnv` says the answer's fields are those. -/
theorem exec_keeps_random (hr : ∀ x nn, i ≠ .rnd x nn) (h : exec i s = .next t) :
    t.rndIn = s.rndIn ∧ t.draws = s.draws := by
  have key : exec i s = Result.withEnv s.cfg s.rndIn s.draws (exec i s) :=
    exec_withEnv (r := s.rndIn) (n := s.draws) hr (.refl i s.cfg)
  rw [h] at key
  have ht : t = t.withEnv s.cfg s.rndIn s.draws := Host.Outcome.next.inj key
  exact ⟨by rw [ht]; rfl, by rw [ht]; rfl⟩

/-! ### `CXNN` -/

/-- What `CXNN` answers (43_alu.md R143), by the byte it takes. -/
theorem exec_rnd (x : Reg) (nn : Byte) (s : State) :
    exec (.rnd x nn) s = finish (s.takeRnd.2.setV x (s.takeRnd.1 &&& nn)) := rfl

/-- `CXNN` where no command names the byte takes the next free one (00_scope.md R8). -/
theorem exec_rnd_of_none (x : Reg) (nn : Byte) (h : s.rndIn = none) :
    exec (.rnd x nn) s =
      finish ((s.withEnv s.cfg none (s.draws + 1)).setV x (Config.freeRnd s.draws &&& nn)) := by
  rw [exec_rnd, State.takeRnd_eq, h]
  rfl

/-- `CXNN` where the STEP names the byte takes that one (R8). -/
theorem exec_rnd_of_some (x : Reg) (nn : Byte) {b : Byte} (h : s.rndIn = some b) :
    exec (.rnd x nn) s = finish ((s.withEnv s.cfg none s.draws).setV x (b &&& nn)) := by
  rw [exec_rnd, State.takeRnd_eq, h]
  rfl

/-- The quirks do not reach `CXNN`. -/
theorem exec_rnd_cfg (x : Reg) (nn : Byte) (h : exec (.rnd x nn) s = .next t) :
    exec (.rnd x nn) { s with cfg := c } = .next { t with cfg := c } := by
  obtain hr | ⟨b, hr⟩ := Option.eq_none_or_eq_some s.rndIn
  · rw [exec_rnd_of_none x nn hr] at h
    rw [exec_rnd_of_none (s := { s with cfg := c }) x nn hr]
    cases h
    rfl
  · rw [exec_rnd_of_some x nn hr] at h
    rw [exec_rnd_of_some (s := { s with cfg := c }) x nn hr]
    cases h
    rfl

/-! ### Frames -/

theorem KeepsAllBut.trans {ps : List Part} {u : State} (h : KeepsAllBut ps s t) (h' : KeepsAllBut ps t u) :
    KeepsAllBut ps s u := by
  intro q hq
  have h1 := h q hq
  have h2 := h' q hq
  cases q <;> simp_all [Keeps]

theorem KeepsAllBut.mono {ps qs : List Part} (h : KeepsAllBut ps s t) (hs : ps ⊆ qs) : KeepsAllBut qs s t :=
  fun q hq => h q fun hp => hq (hs hp)

theorem State.setV_keeps (s : State) (x : Reg) (b : Byte) : KeepsAllBut [.regs] s (s.setV x b) := by
  intro q hq
  cases q <;> simp_all [Keeps]

theorem State.setV_keepsRegs (s : State) (x : Reg) (b : Byte) : KeepsRegsBut [x] s (s.setV x b) := by
  intro q hq
  rw [State.setV_getV, if_neg (List.mem_singleton.not.mp hq)]

/-- Other fields of the random byte, and nothing else, where the configuration is the state's own. -/
theorem State.withEnv_keeps (h : c = s.cfg) : KeepsAllBut [.random] s (s.withEnv c r n) := by
  subst h
  intro q hq
  cases q with
  | random => exact absurd (List.mem_singleton_self _) hq
  | stack => exact ⟨rfl, fun _ => rfl⟩
  | regs | keys | screen | memory => exact fun _ => rfl
  | index | pc | delay | sound | redraw | config | mark => rfl

/-! ### The STEP command -/

theorem endStep_withEnv (a : Result) : endStep (Result.withEnv c r n a) = Result.withEnv c none n a := by
  cases a <;> rfl

/-- The fields of the random byte pass through a step that executes no `CXNN`. -/
theorem step_withEnv
    (hw : s.pc.toNat + 1 < 0x1000 → ∀ x nn, decode (s.wordAt s.pc.toNat) ≠ some (.rnd x nn)) :
    step (s.withEnv s.cfg r n) = Result.withEnv s.cfg r n (step s) := by
  by_cases h : 0x1000 ≤ s.pc.toNat + 1
  · rw [step_of_fetch_fault h, step_of_fetch_fault (s := s.withEnv s.cfg r n) h]
    rfl
  · have h := Nat.lt_of_not_le h
    cases hd : decode (s.wordAt s.pc.toNat) with
    | none =>
      rw [step_of_illegal h hd, step_of_illegal (s := s.withEnv s.cfg r n) h hd]
      rfl
    | some i =>
      rw [step_of_decode h hd, step_of_decode (s := s.withEnv s.cfg r n) h hd]
      exact exec_withEnv (s := s.advance) (fun x nn e => hw h x nn (e ▸ hd)) (.refl i s.cfg)

/-- The STEP command where no `CXNN` is executed: the step, without a byte to read after it. -/
theorem stepCommand_of_not_rnd (b : Byte)
    (hw : s.pc.toNat + 1 < 0x1000 → ∀ x nn, decode (s.wordAt s.pc.toNat) ≠ some (.rnd x nn)) :
    stepCommand b s = Result.withEnv s.cfg none s.draws (step s) :=
  calc stepCommand b s = endStep (step (s.withEnv s.cfg (some b) s.draws)) := rfl
    _ = endStep (Result.withEnv s.cfg (some b) s.draws (step s)) := by rw [step_withEnv hw]
    _ = Result.withEnv s.cfg none s.draws (step s) := endStep_withEnv _

/-- The STEP command where a `CXNN` is executed: it takes the command's byte (43_alu.md R143). -/
theorem stepCommand_of_rnd (b : Byte) {x : Reg} {nn : Byte} (hpc : s.pc.toNat + 1 < 0x1000)
    (hd : decode (s.wordAt s.pc.toNat) = some (.rnd x nn)) :
    stepCommand b s = finish ((s.advance.withEnv s.cfg none s.draws).setV x (b &&& nn)) :=
  calc stepCommand b s = endStep (step (s.withEnv s.cfg (some b) s.draws)) := rfl
    _ = endStep (exec (.rnd x nn) (s.withEnv s.cfg (some b) s.draws).advance) := by
      rw [step_of_decode (s := s.withEnv s.cfg (some b) s.draws) hpc hd]
    _ = finish ((s.advance.withEnv s.cfg none s.draws).setV x (b &&& nn)) := by
      rw [exec_rnd_of_some (s := (s.withEnv s.cfg (some b) s.draws).advance) x nn rfl]
      rfl

/-- The STEP command with the next free byte answers what the step with no byte named answers, but that
no draw is counted. -/
theorem stepCommand_freeRnd (hr : s.rndIn = none) (h : step s = .next t) :
    stepCommand (Config.freeRnd s.draws) s = .next (t.withEnv s.cfg none s.draws) := by
  by_cases hw : s.pc.toNat + 1 < 0x1000 → ∀ x nn, decode (s.wordAt s.pc.toNat) ≠ some (.rnd x nn)
  · rw [stepCommand_of_not_rnd _ hw, h]
    rfl
  · push Not at hw
    obtain ⟨hpc, x, nn, hd⟩ := hw
    rw [step_of_decode hpc hd, exec_rnd_of_none (s := s.advance) x nn hr] at h
    rw [stepCommand_of_rnd _ hpc hd]
    cases h
    rfl

/-! ### The statements -/

/-- Settles O39: the STEP command is the step without its byte, whatever the byte. -/
theorem onlyRndReadsTheStepsByte : Obligations.OnlyRndReadsTheStepsByte := by
  intro s r r' hw
  calc stepCommand r s = Result.withEnv s.cfg none s.draws (step s) := stepCommand_of_not_rnd r fun _ => hw
    _ = stepCommand r' s := (stepCommand_of_not_rnd r' fun _ => hw).symm

/-- Settles O40: the byte is the next free one. -/
theorem freeStepIsAStepCommand : Obligations.FreeStepIsAStepCommand := by
  intro s t hr h
  exact ⟨Config.freeRnd s.draws, t.withEnv s.cfg none s.draws, stepCommand_freeRnd hr h, rfl,
    State.withEnv_keeps (step_cfg h).symm, rfl⟩

/-- Settles O49: `exec_withEnv` with the random byte's fields as they are, and `CXNN` by itself. -/
theorem quirksReachOnlyTheirInstructions : Obligations.QuirksReachOnlyTheirInstructions := by
  intro i s t c hfont hshift hload hdraw h
  by_cases hr : ∃ x nn, i = .rnd x nn
  · obtain ⟨x, nn, rfl⟩ := hr
    exact exec_rnd_cfg x nn h
  · push Not at hr
    obtain ⟨hin, hdraws⟩ := exec_keeps_random hr h
    calc exec i { s with cfg := c } = Result.withEnv c s.rndIn s.draws (exec i s) :=
          exec_withEnv hr ⟨hfont, hshift, hload, hdraw⟩
      _ = .next (t.withEnv c s.rndIn s.draws) := by rw [h]; rfl
      _ = .next { t with cfg := c } := by rw [← hin, ← hdraws]; rfl

/-- Settles O24. -/
theorem rndDrawsAFreeByteWhereNoneIsNamed : Obligations.RndDrawsAFreeByteWhereNoneIsNamed := by
  intro x nn s hr
  have hkeeps : KeepsAllBut [.regs, .random] s
      ((s.withEnv s.cfg none (s.draws + 1)).setV x (Config.freeRnd s.draws &&& nn)) :=
    ((State.withEnv_keeps rfl).mono (by simp)).trans ((State.setV_keeps _ x _).mono (by simp))
  have hregs : KeepsRegsBut [x] s
      ((s.withEnv s.cfg none (s.draws + 1)).setV x (Config.freeRnd s.draws &&& nn)) :=
    State.setV_keepsRegs (s.withEnv s.cfg none (s.draws + 1)) x _
  exact ⟨_, exec_rnd_of_none x nn hr, rfl, fun b _ => by simp, rfl, rfl, hregs, hkeeps.report_ok⟩

/-- Settles O59: the step has a next state, and `endStep` clears the byte in it. -/
theorem stepCommandIsTheStepWithItsByte : Obligations.StepCommandIsTheStepWithItsByte := by
  intro s r
  obtain ⟨t, h⟩ := step_next { s with rndIn := some r }
  exact ⟨t, h, congrArg endStep h⟩

end Sys2Proof.Machine
end

section
/-! SUPPORT. Proofs of the statements of 10_state.md. The first part says once what a completed
instruction can have done (`Completes`): it kept every part outside those its rule writes, and the
memory below the program area. The frames of all instructions (R22, R23,
R35, R38), `PC` (R25), the invariant (R41) and the two noninterference statements (R23, R30) follow. -/

namespace Sys2Proof.Machine

variable {i : Instr} {s t u : State} {ps qs : List Part} {r : Reg} {b : Byte}

/-! ### Frames of the updates -/

theorem State.setI_keeps (s : State) (w : Word) : KeepsAllBut [.index] s (s.setI w) := by
  intro q hq
  cases q <;> simp_all [Keeps]

theorem State.setPc_keeps (s : State) (w : Word) : KeepsAllBut [.pc] s (s.setPc w) := by
  intro q hq
  cases q <;> simp_all [Keeps]

theorem State.setDt_keeps (s : State) (c : Byte) : KeepsAllBut [.delay] s (s.setDt c) := by
  intro q hq
  cases q <;> simp_all [Keeps]

theorem State.setSt_keeps (s : State) (c : Byte) : KeepsAllBut [.sound] s (s.setSt c) := by
  intro q hq
  cases q <;> simp_all [Keeps]

theorem State.setFb_keeps (s : State) (f : Framebuffer) : KeepsAllBut [.screen] s (s.setFb f) := by
  intro q hq
  cases q <;> simp_all [Keeps]

theorem State.setNr_keeps (s : State) (c : Bool) : KeepsAllBut [.redraw] s (s.setNr c) := by
  intro q hq
  cases q <;> simp_all [Keeps]

theorem State.setRegs_keeps (s : State) (v : Vector Byte 16) : KeepsAllBut [.regs] s (s.setRegs v) := by
  intro q hq
  cases q <;> simp_all [Keeps]

/-- Other slots and another `SP`, and nothing else. -/
theorem State.withStack_keeps (s : State) (k : Vector Word 16) (n : Fin 17) :
    KeepsAllBut [.stack] s { s with stack := k, sp := n } := by
  intro q hq
  cases q with
  | stack => exact absurd (List.mem_singleton_self _) hq
  | random => exact ⟨rfl, rfl⟩
  | regs | keys | screen | memory => exact fun _ => rfl
  | index | pc | delay | sound | redraw | config | mark => rfl

/-- One update after another keeps what both keep. -/
theorem KeepsAllBut.andThen (h : KeepsAllBut ps s t) (h' : KeepsAllBut qs t u) :
    KeepsAllBut (ps ++ qs) s u :=
  (h.mono (List.subset_append_left ps qs)).trans (h'.mono (List.subset_append_right ps qs))

theorem State.setResultThenFlag_keeps (s : State) (x : Reg) (result flag : Byte) :
    KeepsAllBut [.regs] s (s.setResultThenFlag x result flag) :=
  (s.setV_keeps x result).trans ((s.setV x result).setV_keeps regF flag)

theorem State.takeRnd_keeps (s : State) : KeepsAllBut [.random] s s.takeRnd.2 := by
  rw [State.takeRnd_eq]
  exact State.withEnv_keeps rfl

/-! ### Memory -/

/-- From `s` to `t` memory changed, if at all, inside the program area, 0x200 to 0xFFF (10_state.md R35;
20_memory.md R50, R55): the configuration and every byte below are kept, and so is the canonical form. -/
structure KeepsLowMemory (s t : State) : Prop where
  cfg : t.cfg = s.cfg
  wf : Memory.wf s.cfg.font s.mem → Memory.wf t.cfg.font t.mem
  low : ∀ a, a < 0x200 → t.readByte a = s.readByte a

theorem KeepsLowMemory.of_eq (hc : t.cfg = s.cfg) (hm : t.mem = s.mem) : KeepsLowMemory s t where
  cfg := hc
  wf h := by rwa [hc, hm]
  low a _ := by simp only [State.readByte, hc, hm]

theorem KeepsLowMemory.trans (h : KeepsLowMemory s t) (h' : KeepsLowMemory t u) : KeepsLowMemory s u where
  cfg := h'.cfg.trans h.cfg
  wf hw := h'.wf (h.wf hw)
  low a ha := (h'.low a ha).trans (h.low a ha)

theorem State.writeBytes_keepsLowMemory (s : State) {a : Nat} {bs : List Byte} (ha : 0x200 ≤ a)
    (hl : a + bs.length ≤ 0x1000) : KeepsLowMemory s (s.writeBytes a bs) where
  cfg := s.writeBytes_cfg a bs
  wf h := by rw [State.writeBytes_cfg]; exact s.writeBytes_wf bs a h hl
  low c hc := s.writeBytes_keepsBytes a bs c (.inl (Nat.lt_of_lt_of_le hc ha))

/-! ### What an answer can be -/

/-- The answer completes in a state with `P`, or raises from the very state it was handed. -/
inductive EndsIn (P : State → Prop) (s : State) : Result → Prop where
  | finished (u : State) (h : P u) : EndsIn P s (finish u)
  | raised (e : Status) : EndsIn P s (raise e s)

/-- The next state of such an answer reports a status, from a state with `P` or from `s`. -/
theorem EndsIn.next {P : State → Prop} (h : EndsIn P s (.next t)) :
    ∃ u e, (P u ∨ u = s) ∧ t = u.report e := by
  generalize ha : (Host.Outcome.next t : Result) = a at h
  cases h with
  | finished u hu => exact ⟨u, .ok, .inl hu, Host.Outcome.next.inj ha⟩
  | raised e => exact ⟨s, e, .inr rfl, Host.Outcome.next.inj ha⟩

/-- What instruction `i`, completing from `s`, has done by `t`. -/
structure Completes (i : Instr) (s t : State) : Prop where
  parts : KeepsAllBut (MayChange i) s t
  memory : KeepsLowMemory s t

theorem Completes.of_parts (h : KeepsAllBut (MayChange i) s t) (hc : t.cfg = s.cfg) (hm : t.mem = s.mem) :
    Completes i s t := ⟨h, .of_eq hc hm⟩

/-! ### The answers of the instructions with more than one -/

theorem execRet_empty (h : s.sp = 0) : execRet s = raise .stackUnderflow s := by
  simp only [execRet, State.pop_empty h]

/-- `00EE` with `j + 1` entries held (41_flow.md R110). -/
theorem execRet_of_entry {j : Fin 16} (h : s.sp.val = j.val + 1) :
    execRet s = finish ({ s with sp := ⟨j.val, by omega⟩ }.setPc (s.slot j)) := by
  have hp : 0 < s.sp.val := by omega
  have hj : s.sp.val - 1 = j.val := by omega
  simp only [execRet, State.pop_of_pos hp, hj]
  rfl

theorem execCall_full (nnn : BitVec 12) (h : s.sp = 16) : execCall nnn s = raise .stackOverflow s := by
  simp only [execCall, State.push_full _ h]

/-- `2NNN` with room for one more entry (41_flow.md R112). -/
theorem execCall_of_lt (nnn : BitVec 12) (h : s.sp.val < 16) :
    execCall nnn s =
      finish ({ s with stack := s.stack.set s.sp.val s.pc h, sp := ⟨s.sp.val + 1, by omega⟩ }.setPc
        (zextAddr nnn)) := by
  simp only [execCall, State.push_of_lt _ h]

/-- `SP` is 0, or counts the entries up to a newest one. -/
theorem State.sp_cases (s : State) : s.sp = 0 ∨ ∃ j : Fin 16, s.sp.val = j.val + 1 := by
  by_cases h : s.sp = 0
  · exact .inl h
  · exact .inr ⟨⟨s.sp.val - 1, by omega⟩, by simp; omega⟩

/-- A store at `I` raises, or keeps the memory below the program area. -/
theorem storeAtI_cases (bs : List Byte) (s : State) (hl : 0 < bs.length) :
    (∃ e, storeAtI bs s = .error e) ∨
      (KeepsLowMemory s (s.writeBytes s.i.toNat bs) ∧
        storeAtI bs s = .ok (s.writeBytes s.i.toNat bs)) := by
  rw [storeAtI_eq bs s hl]
  split
  · exact .inl ⟨_, rfl⟩
  · next ha =>
    split
    · next hb => exact .inr ⟨s.writeBytes_keepsLowMemory (Nat.le_of_not_lt ha) hb, rfl⟩
    · exact .inl ⟨_, rfl⟩

theorem State.slot_set_of_ne (n : Nat) (w : Word) (h : n < 16) {j : Fin 16} (hj : j.val ≠ n) :
    ({ s with stack := s.stack.set n w h } : State).slot j = s.slot j := by
  simp [State.slot, Ne.symm hj]

/-- A slot after a write of one slot. -/
theorem State.slot_set (n : Nat) (w : Word) (h : n < 16) (j : Fin 16) :
    ({ s with stack := s.stack.set n w h } : State).slot j = s.slot j ∨
      ({ s with stack := s.stack.set n w h } : State).slot j = w := by
  by_cases hj : j.val = n
  · subst hj
    exact .inr (by simp [State.slot])
  · exact .inl (State.slot_set_of_ne n w h hj)

/-! ### Every instruction completes or raises -/

theorem execRet_endsIn (s : State) : EndsIn (Completes .ret s) s (execRet s) := by
  obtain h | ⟨j, h⟩ := s.sp_cases
  · rw [execRet_empty h]; exact .raised _
  · rw [execRet_of_entry h]
    exact .finished _ (.of_parts (((s.withStack_keeps _ _).andThen (State.setPc_keeps _ _)).mono
      (by simp [MayChange])) rfl rfl)

theorem execCall_endsIn (nnn : BitVec 12) (s : State) : EndsIn (Completes (.call nnn) s) s (execCall nnn s) := by
  by_cases h : s.sp.val < 16
  · rw [execCall_of_lt nnn h]
    exact .finished _ (.of_parts (((s.withStack_keeps _ _).andThen (State.setPc_keeps _ _)).mono
      (by simp [MayChange])) rfl rfl)
  · rw [execCall_full nnn (by omega)]; exact .raised _

theorem skipIf_endsIn (c : Bool) (s : State) (h : MayChange i = [.pc]) :
    EndsIn (Completes i s) s (skipIf c s) := by
  cases c with
  | false => exact .finished _ (.of_parts (.refl _ s) rfl rfl)
  | true => exact .finished _ (.of_parts (h ▸ s.setPc_keeps _) rfl rfl)

theorem skipIfKey_endsIn (c : Bool) (x : Reg) (s : State) (h : MayChange i = [.pc]) :
    EndsIn (Completes i s) s (skipIfKey c x s) := by
  unfold skipIfKey
  cases keyNamed (s.getV x) with
  | none => exact .raised _
  | some k => exact skipIf_endsIn _ s h

theorem execRnd_endsIn (x : Reg) (nn : Byte) (s : State) :
    EndsIn (Completes (.rnd x nn) s) s (execRnd x nn s) :=
  .finished _ (.of_parts ((s.takeRnd_keeps.andThen (State.setV_keeps _ x _)).mono (by simp [MayChange]))
    (by rw [State.takeRnd_eq]; rfl) (by rw [State.takeRnd_eq]; rfl))

theorem execDrw_endsIn (x y : Reg) (n : Nat) (s : State) :
    EndsIn (Completes (.drw x y n) s) s (execDrw x y n s) := by
  rw [execDrw_eq]
  split
  · exact .finished _ (.of_parts ((((s.setFb_keeps _).andThen (State.setV_keeps _ regF _)).andThen
      (State.setNr_keeps _ true)).mono (by simp [MayChange])) rfl rfl)
  · exact .raised _

theorem execLdVxK_endsIn (x : Reg) (s : State) : EndsIn (Completes (.ldVxK x) s) s (execLdVxK x s) := by
  unfold execLdVxK
  cases s.lowestKey with
  | none => exact .finished _ (.of_parts ((s.setPc_keeps _).mono (by simp [MayChange])) rfl rfl)
  | some k => exact .finished _ (.of_parts ((s.setV_keeps x _).mono (by simp [MayChange])) rfl rfl)

theorem execLdBVx_endsIn (x : Reg) (s : State) : EndsIn (Completes (.ldBVx x) s) s (execLdBVx x s) := by
  unfold execLdBVx
  obtain ⟨e, h⟩ | ⟨hw, h⟩ := storeAtI_cases (decimalDigits (s.getV x)) s (by simp)
  · rw [h]; exact .raised e
  · rw [h]; exact .finished _ ⟨s.writeBytes_keeps _ _, hw⟩

theorem execLdMemVx_endsIn (x : Reg) (s : State) : EndsIn (Completes (.ldMemVx x) s) s (execLdMemVx x s) := by
  unfold execLdMemVx
  obtain ⟨e, h⟩ | ⟨hw, h⟩ := storeAtI_cases (s.regBlock x) s (by simp)
  · rw [h]; exact .raised e
  · rw [h]; exact .finished _ ⟨(s.writeBytes_keeps _ _).andThen (State.setI_keeps _ _), hw.trans (.of_eq rfl rfl)⟩

theorem execLdVxMem_endsIn (x : Reg) (s : State) : EndsIn (Completes (.ldVxMem x) s) s (execLdVxMem x s) := by
  rw [execLdVxMem_eq]
  split
  · exact .finished _ (.of_parts ((s.setRegs_keeps _).andThen (State.setI_keeps _ _))
      (by simp only [State.setI_cfg, State.setRegs_cfg]) (by simp only [State.setI_mem, State.setRegs_mem]))
  · exact .raised _

/-- Every instruction raises from the state it was handed, or completes within what its rule writes. -/
theorem exec_endsIn (i : Instr) (s : State) : EndsIn (Completes i s) s (exec i s) := by
  cases i with
  | ldImm | addImm | ldReg | ldVxDt => exact .finished _ (.of_parts (s.setV_keeps _ _) rfl rfl)
  | orReg | andReg | xorReg | addReg | sub | shr | subn | shl =>
    exact .finished _ (.of_parts (s.setResultThenFlag_keeps _ _ _) rfl rfl)
  | jp | jpV0 => exact .finished _ (.of_parts (s.setPc_keeps _) rfl rfl)
  | ldI | addIVx | ldFVx => exact .finished _ (.of_parts (s.setI_keeps _) rfl rfl)
  | ldDtVx => exact .finished _ (.of_parts (s.setDt_keeps _) rfl rfl)
  | ldStVx => exact .finished _ (.of_parts (s.setSt_keeps _) rfl rfl)
  | cls => exact .finished _ (.of_parts ((s.setFb_keeps _).andThen (State.setNr_keeps _ true)) rfl rfl)
  | seImm | sneImm | seReg | sneReg => exact skipIf_endsIn _ s rfl
  | skp x | sknp x => exact skipIfKey_endsIn _ x s rfl
  | ret => exact execRet_endsIn s
  | call nnn => exact execCall_endsIn nnn s
  | rnd x nn => exact execRnd_endsIn x nn s
  | drw x y n => exact execDrw_endsIn x y n s
  | ldVxK x => exact execLdVxK_endsIn x s
  | ldBVx x => exact execLdBVx_endsIn x s
  | ldMemVx x => exact execLdMemVx_endsIn x s
  | ldVxMem x => exact execLdVxMem_endsIn x s

/-- Whatever an instruction reports, every part outside its own (and the mark) is kept. -/
theorem exec_keeps (h : exec i s = .next t) : KeepsAllBut (.mark :: MayChange i) s t := by
  have he := exec_endsIn i s
  rw [h] at he
  obtain ⟨u, e, hu | rfl, rfl⟩ := he.next
  · exact hu.parts.andThen (u.report_keeps e) |>.mono (by simp)
  · exact (u.report_keeps e).mono (by simp)

/-- Whatever an instruction reports, memory below the program area is kept. -/
theorem exec_keepsLowMemory (h : exec i s = .next t) : KeepsLowMemory s t := by
  have he := exec_endsIn i s
  rw [h] at he
  obtain ⟨u, e, hu | rfl, rfl⟩ := he.next
  · exact hu.memory.trans (.of_eq rfl rfl)
  · exact .of_eq rfl rfl


/-! ### The frames of the instructions and of a step -/

/-- No instruction but `00E0` and `DXYN` has a business with `NR`, and these two set it (10_state.md R34). -/
theorem exec_nr (h : exec i s = .next t) : t.nr = s.nr ∨ t.nr = true := by
  have kept (hq : Part.redraw ∉ MayChange i) : t.nr = s.nr := exec_keeps h .redraw (by simp [hq])
  cases i with
  | cls => cases h; exact .inr rfl
  | drw x y n =>
    have h : execDrw x y n s = .next t := h
    rw [execDrw_eq] at h
    split at h
    · cases h; exact .inr rfl
    · cases h; exact .inl rfl
  | _ => exact .inl (kept (by simp [MayChange]))

/-- Settles O46: every instruction completes within its parts or raises. -/
theorem instructionsStayInTheirParts : Obligations.InstructionsStayInTheirParts :=
  fun _ _ _ h => ⟨exec_keeps h, exec_nr h⟩

theorem State.setResultThenFlag_keepsRegs (s : State) (x : Reg) (result flag : Byte) :
    KeepsRegsBut [x, regF] s (s.setResultThenFlag x result flag) := by
  intro q hq
  simp only [List.mem_cons, List.not_mem_nil, or_false, not_or] at hq
  rw [State.setResultThenFlag_getV, if_neg hq.2, if_neg hq.1]

/-- Settles O47: an instruction whose rule writes no register keeps them all; each of the others writes Vx,
Vx and then VF, VF alone, or V0 to Vx. -/
theorem registersWrittenAreTheTabledOnes : Obligations.RegistersWrittenAreTheTabledOnes := by
  intro i s t r h hw
  have kept (hq : Part.regs ∉ MayChange i) : t.getV r = s.getV r := exec_keeps h .regs (by simp [hq]) r
  cases i with
  | ldImm x | addImm x | ldReg x | ldVxDt x =>
    cases h
    exact s.setV_keepsRegs x _ r (by simpa [WritesReg] using hw)
  | orReg x | andReg x | xorReg x | addReg x | sub x | shr x | subn x | shl x =>
    cases h
    exact s.setResultThenFlag_keepsRegs x _ _ r (by simpa [WritesReg] using hw)
  | rnd x nn =>
    rw [exec_rnd] at h
    cases h
    exact (State.setV_keepsRegs _ x _ r (by simpa [WritesReg] using hw)).trans
      (s.takeRnd_keeps .regs (by decide) r)
  | drw x y n =>
    have h : execDrw x y n s = .next t := h
    rw [execDrw_eq] at h
    split at h
    · cases h
      exact State.setV_keepsRegs (s.setFb _) regF _ r (by simpa [WritesReg] using hw)
    · cases h
      rfl
  | ldVxK x =>
    have h : execLdVxK x s = .next t := h
    unfold execLdVxK at h
    cases hk : s.lowestKey with
    | none =>
      rw [hk] at h
      cases h
      rfl
    | some k =>
      rw [hk] at h
      cases h
      exact s.setV_keepsRegs x _ r (by simpa [WritesReg] using hw)
  | ldVxMem x =>
    have h : execLdVxMem x s = .next t := h
    rw [execLdVxMem_eq] at h
    split at h
    · cases h
      have hr : ¬ r ≤ x := hw
      simp [hr]
    · cases h
      rfl
  | _ => exact kept (by simp [MayChange])

/-- A step raises from the state before or after the advance of `PC`, or executes after the advance
(30_encoding.md R71, R72). -/
theorem step_cases (h : step s = .next t) :
    (∃ e, 0x1000 ≤ s.pc.toNat + 1 ∧ t = s.report e) ∨
    (∃ e, s.pc.toNat + 1 < 0x1000 ∧ decode (s.wordAt s.pc.toNat) = none ∧ t = s.advance.report e) ∨
    ∃ i, s.pc.toNat + 1 < 0x1000 ∧ decode (s.wordAt s.pc.toNat) = some i ∧ exec i s.advance = .next t := by
  by_cases hpc : 0x1000 ≤ s.pc.toNat + 1
  · rw [step_of_fetch_fault hpc] at h
    exact .inl ⟨_, hpc, (Host.Outcome.next.inj h).symm⟩
  · have hpc := Nat.lt_of_not_le hpc
    cases hd : decode (s.wordAt s.pc.toNat) with
    | none =>
      rw [step_of_illegal hpc hd] at h
      exact .inr (.inl ⟨_, hpc, rfl, (Host.Outcome.next.inj h).symm⟩)
    | some i =>
      rw [step_of_decode hpc hd] at h
      exact .inr (.inr ⟨i, hpc, rfl, h⟩)

theorem step_keepsLowMemory (h : step s = .next t) : KeepsLowMemory s t := by
  obtain ⟨e, -, rfl⟩ | ⟨e, -, -, rfl⟩ | ⟨i, -, -, h⟩ := step_cases h
  · exact .of_eq rfl rfl
  · exact .of_eq rfl rfl
  · exact (KeepsLowMemory.of_eq (s := s) (t := s.advance) rfl rfl).trans (exec_keepsLowMemory h)

/-- Settles O52. -/
theorem bytesBelowProgramNeverChange : Obligations.BytesBelowProgramNeverChange :=
  fun _ _ h _ ha => (step_keepsLowMemory h).low _ ha

/-! ### `PC` -/

/-- A skip at address `a` leaves `a + 4` or `a + 2` (42_skip.md R120). -/
theorem skipIf_advance_pc {c : Bool} (h : skipIf c s.advance = .next t) :
    t.pc = if c then s.pc + 4#16 else s.pc + 2#16 := by
  cases h
  cases c with
  | false => rfl
  | true => exact BitVec.add_assoc s.pc 2#16 2#16

/-- A skip on a key at address `a`: the key Vx names has the flag `wanted`, or `a + 2`. -/
theorem skipIfKey_advance_pc {c : Bool} {x : Reg} (h : skipIfKey c x s.advance = .next t) :
    t.pc = if ∃ k : Fin 16, (s.getV x).toNat = k.val ∧ s.key k = c then s.pc + 4#16 else s.pc + 2#16 := by
  unfold skipIfKey at h
  by_cases hv : (s.getV x).toNat < 16
  · have hk : keyNamed (s.advance.getV x) = some ⟨(s.getV x).toNat, hv⟩ := keyNamed_of_eq rfl
    rw [hk] at h
    rw [skipIf_advance_pc h]
    refine if_congr ⟨fun e => ⟨_, rfl, by simpa using e⟩, fun ⟨k, hk, e⟩ => ?_⟩ rfl rfl
    obtain rfl : (⟨(s.getV x).toNat, hv⟩ : Fin 16) = k := Fin.ext hk
    simpa using e
  · have hk : keyNamed (s.advance.getV x) = none := keyNamed_of_gt (show 0xF < (s.getV x).toNat by omega)
    rw [hk] at h
    cases h
    rw [if_neg fun ⟨k, hk, _⟩ => hv (by omega)]
    rfl

theorem execJpV0_pc {nnn : BitVec 12} (h : execJpV0 nnn s = .next t) :
    t.pc.toNat = (s.getV 0).toNat + nnn.toNat := by
  cases h
  have h : (zextByte (s.getV 0) + zextAddr nnn).toNat = (s.getV 0).toNat + nnn.toNat := by
    rw [BitVec.toNat_add, zextByte_toNat, zextAddr_toNat]
    omega
  exact h

theorem execRet_pc (h : execRet s = .next t) :
    (s.sp = 0 → t.pc = s.pc) ∧ ∀ j : Fin 16, s.sp.val = j.val + 1 → t.pc = s.slot j := by
  constructor
  · intro h0
    rw [execRet_empty h0] at h
    cases h
    rfl
  · intro j hj
    rw [execRet_of_entry hj] at h
    cases h
    rfl

theorem execCall_pc {nnn : BitVec 12} (h : execCall nnn s = .next t) :
    if s.sp = 16 then t.pc = s.pc else t.pc.toNat = nnn.toNat := by
  split
  · next h16 =>
    rw [execCall_full nnn h16] at h
    cases h
    rfl
  · rw [execCall_of_lt nnn (by omega)] at h
    cases h
    exact zextAddr_toNat nnn

/-- `FX0A` goes back to its own address while no key is set (45_timer_input.md R171). -/
theorem execLdVxK_advance_pc {x : Reg} (h : execLdVxK x s.advance = .next t) :
    t.pc = if ∀ k, s.key k = false then s.pc else s.pc + 2#16 := by
  unfold execLdVxK at h
  split
  · next hk =>
    rw [State.lowestKey_of_none (s := s.advance) hk] at h
    cases h
    exact BitVec.add_sub_cancel s.pc 2#16
  · next hk =>
    cases hl : s.advance.lowestKey with
    | none => exact absurd (by simpa [State.lowestKey] using hl) hk
    | some k =>
      rw [hl] at h
      cases h
      rfl

/-- The table of R25 for an instruction executed after the advance. -/
theorem exec_advance_pc (h : exec i s.advance = .next t) : PcAfter i s s.pc t.pc := by
  have kept (hq : Part.pc ∉ MayChange i) : t.pc = s.pc + 2#16 := exec_keeps h .pc (by simp [hq])
  cases i with
  | jp nnn => cases h; exact zextAddr_toNat nnn
  | jpV0 nnn => exact execJpV0_pc (s := s.advance) h
  | ret => exact execRet_pc (s := s.advance) h
  | call nnn => exact execCall_pc (s := s.advance) h
  | seImm | seReg => simpa [PcAfter] using skipIf_advance_pc h
  | sneImm | sneReg => simpa [PcAfter] using skipIf_advance_pc h
  | skp x => exact skipIfKey_advance_pc (c := true) h
  | sknp x => exact skipIfKey_advance_pc (c := false) h
  | ldVxK x => exact execLdVxK_advance_pc h
  | _ => exact kept (by simp [MayChange])

/-- Settles O45, by the three ways a step can go. -/
theorem pcFollowsTheTable : Obligations.PcFollowsTheTable := by
  refine ⟨fun s t hpc h => ?_, fun s t hpc hd h => ?_, fun s t i hpc hd h => ?_⟩
  · rw [step_of_fetch_fault hpc] at h
    cases h
    rfl
  · rw [step_of_illegal hpc hd] at h
    cases h
    rfl
  · rw [step_of_decode hpc hd] at h
    exact exec_advance_pc h


/-! ### The invariant -/

/-- At creation nothing is listed in memory, and every slot is 0. -/
theorem State.created_inv (c : Config) : (State.created c).Inv := by
  refine ⟨State.created_mem_wf c, fun _ _ => rfl, (by decide : (0x200#16).toNat ≤ 0x10FE), fun j => ?_⟩
  simp [State.slot, State.created]

/-- Settles O55. -/
theorem invariantHoldsAtReset : Obligations.InvariantHoldsAtReset :=
  ⟨State.created_inv defaultConfig, State.created_inv⟩

/-- The invariant reads nothing but memory with its font, `PC` and the slots. -/
theorem State.Inv.of_keeps (h : s.Inv) (hm : KeepsLowMemory s t) (hpc : t.pc.toNat ≤ 0x10FE)
    (hslot : ∀ j, (t.slot j).toNat ≤ 0x1000) : t.Inv := by
  obtain ⟨hwf, hlow, -, -⟩ := h
  refine ⟨hm.wf hwf, fun a ha => ?_, hpc, hslot⟩
  rw [hm.low a ha, hlow a ha, hm.cfg]

/-- A pushed slot holds the advanced `PC` (41_flow.md R112); every other slot is kept. -/
theorem exec_slot (h : exec i s = .next t) (j : Fin 16) : t.slot j = s.slot j ∨ t.slot j = s.pc := by
  have kept (hq : Part.stack ∉ MayChange i) : t.slot j = s.slot j :=
    (exec_keeps h .stack (by simp [hq])).2 j
  cases i with
  | ret =>
    have h : execRet s = .next t := h
    obtain h0 | ⟨k, hk⟩ := s.sp_cases
    · rw [execRet_empty h0] at h
      cases h
      exact .inl rfl
    · rw [execRet_of_entry hk] at h
      cases h
      exact .inl rfl
  | call nnn =>
    have h : execCall nnn s = .next t := h
    by_cases hsp : s.sp.val < 16
    · rw [execCall_of_lt nnn hsp] at h
      cases h
      exact State.slot_set s.sp.val s.pc hsp j
    · rw [execCall_full nnn (by omega)] at h
      cases h
      exact .inl rfl
  | _ => exact .inl (kept (by simp [MayChange]))

theorem toNat_ite_le {p : Prop} [Decidable p] {v w : Word} {n : Nat} (hv : v.toNat ≤ n) (hw : w.toNat ≤ n) :
    (if p then v else w).toNat ≤ n := by
  split
  · exact hv
  · exact hw

/-- Where `PC` and the slots are within the bounds of R41 and an instruction was fetched at `PC`, the table of
R25 keeps `PC` within its bound: `BNNN` reaches furthest, to 0xFF + 0xFFF (10_state.md R27). -/
theorem PcAfter.le {pc : Word} (h : PcAfter i s s.pc pc) (hpc : s.pc.toNat + 1 < 0x1000)
    (hslot : ∀ j, (s.slot j).toNat ≤ 0x1000) : pc.toNat ≤ 0x10FE := by
  have h2 : (s.pc + 2#16).toNat ≤ 0x10FE := by rw [BitVec.toNat_add, BitVec.toNat_ofNat]; omega
  have h4 : (s.pc + 4#16).toNat ≤ 0x10FE := by rw [BitVec.toNat_add, BitVec.toNat_ofNat]; omega
  cases i with
  | jp nnn => have h : pc.toNat = nnn.toNat := h; omega
  | jpV0 nnn => have h : pc.toNat = (s.getV 0).toNat + nnn.toNat := h; omega
  | ret =>
    obtain ⟨hempty, hentry⟩ := h
    obtain h0 | ⟨j, hj⟩ := s.sp_cases
    · rw [hempty h0]; exact h2
    · rw [hentry j hj]; exact (hslot j).trans (by decide)
  | call nnn =>
    simp only [PcAfter] at h
    split at h
    · rw [h]; exact h2
    · omega
  | ldVxK x =>
    rw [show pc = _ from h]
    exact toNat_ite_le (by omega) h2
  | seImm | sneImm | seReg | sneReg | skp | sknp =>
    rw [show pc = _ from h]
    exact toNat_ite_le h4 h2
  | _ => rw [show pc = s.pc + 2#16 from h]; exact h2

/-- Every step keeps the invariant, by the three ways it can go. -/
theorem State.Inv.step (hi : s.Inv) (h : Machine.step s = .next t) : t.Inv := by
  have hm := step_keepsLowMemory h
  have ⟨_, _, hpc, hslot⟩ := hi
  obtain ⟨e, -, rfl⟩ | ⟨e, hlt, -, rfl⟩ | ⟨i, hlt, -, h⟩ := step_cases h
  · exact hi
  · refine hi.of_keeps hm ?_ hslot
    have h2 : (s.pc + 2#16).toNat ≤ 0x10FE := by rw [BitVec.toNat_add, BitVec.toNat_ofNat]; omega
    exact h2
  · refine hi.of_keeps hm ((exec_advance_pc h).le hlt hslot) fun j => ?_
    obtain hj | hj := exec_slot h j
    · rw [hj]; exact hslot j
    · rw [hj, State.advance_pc, BitVec.toNat_add, BitVec.toNat_ofNat]; omega

/-- Settles O56. -/
theorem stepKeepsInvariant : Obligations.StepKeepsInvariant := fun _ _ hi h => hi.step h

/-- Every command has a next state, with the invariant where the command began with it. -/
theorem State.Inv.command (c : Command) (hi : s.Inv) :
    ∃ t, Machine.command c s = .next t ∧ t.Inv ∧ t.cfg = s.cfg := by
  cases c with
  | reset => exact ⟨_, rfl, State.created_inv s.cfg, rfl⟩
  | load bytes =>
    by_cases hl : programMax < bytes.length
    · exact ⟨_, if_pos hl, hi, rfl⟩
    · have hm := s.writeBytes_keepsLowMemory (a := programBase) (bs := bytes) (by decide)
        (by simp only [programMax, programBase] at *; omega)
      have hk := s.writeBytes_keeps programBase bytes
      have ⟨_, _, hpc, hslot⟩ := hi
      have ht : (s.writeBytes programBase bytes).Inv := by
        refine hi.of_keeps hm ?_ fun j => ?_
        · rw [hk .pc (by decide)]; exact hpc
        · rw [(hk .stack (by decide)).2 j]; exact hslot j
      exact ⟨_, if_neg hl, ht, hm.cfg⟩
  | step b =>
    obtain ⟨t, h⟩ := step_next { s with rndIn := some b }
    have ht : t.Inv := State.Inv.step (s := { s with rndIn := some b }) hi h
    have hcfg := step_cfg h
    exact ⟨{ t with rndIn := none }, congrArg endStep h, ht, hcfg⟩
  | tick | setKeys | clearRedraw => exact ⟨_, rfl, hi, rfl⟩

/-- Every schedule keeps the invariant, by induction over its commands. -/
theorem State.Inv.runCommands (cs : List Command) (hi : s.Inv) :
    ∃ t, Machine.runCommands cs s = .next t ∧ t.Inv ∧ t.cfg = s.cfg := by
  induction cs generalizing s with
  | nil => exact ⟨s, rfl, hi, rfl⟩
  | cons c cs ih =>
    obtain ⟨t, hc, ht, hcfg⟩ := hi.command c
    obtain ⟨u, hcs, hu, hcfg'⟩ := ih ht
    refine ⟨u, ?_, hu, hcfg'.trans hcfg⟩
    simp only [Machine.runCommands, hc, hcs]

theorem Memory.unlisted_of_lt (font : Vector Byte 80) {a : Nat} (h : a < 80) :
    Memory.unlisted font a = font[a] := dif_pos h

theorem Memory.unlisted_of_ge (font : Vector Byte 80) {a : Nat} (h : 80 ≤ a) :
    Memory.unlisted font a = 0#8 := dif_neg (Nat.not_lt.mpr h)

/-- Settles O57: the bytes below 0x200 stand in the invariant at their reset values. -/
theorem everyScheduleKeepsInvariant : Obligations.EveryScheduleKeepsInvariant := by
  refine ⟨fun cs s hi => hi.runCommands cs, fun cs c => ?_⟩
  obtain ⟨t, h, ⟨-, hlow, hpc, -⟩, hcfg⟩ := (State.created_inv c).runCommands cs
  refine ⟨t, h, Nat.le_of_lt_succ t.sp.isLt, fun a ha => ?_, fun a h50 h1FF => ?_, hpc⟩
  · rw [hlow a (by omega), hcfg]
    exact Memory.unlisted_of_lt c.font ha
  · rw [hlow a (by omega)]
    exact Memory.unlisted_of_ge t.cfg.font h50

/-! ### Reset, the font, the stack -/

theorem State.created_atResetValues (c : Config) : (State.created c).AtResetValues := by
  refine ⟨fun a ha => Memory.unlisted_of_lt c.font ha, fun a ha _ => Memory.unlisted_of_ge c.font ha, fun r => ?_,
    rfl, rfl, fun j => ?_, rfl, rfl, rfl, fun k => ?_, Framebuffer.blank_pixel, rfl⟩
  · simp [State.getV, State.created]
  · simp [State.slot, State.created]
  · simp [State.key, State.created]

/-- Settles O1: RESET gives the created state of the same configuration, but for the model's own fields. -/
theorem resetSetsEveryElement : Obligations.ResetSetsEveryElement :=
  ⟨State.created_atResetValues defaultConfig, fun c => ⟨State.created_atResetValues c, rfl⟩,
    fun s => ⟨_, rfl, rfl, State.created_atResetValues s.cfg, rfl⟩⟩

/-- Settles O26: `I` is 5d, and the invariant gives the bytes there. -/
theorem ldFPointsAtGlyph : Obligations.LdFPointsAtGlyph := by
  intro x s d hi hd
  obtain ⟨-, hlow, -, -⟩ := hi
  refine ⟨_, rfl, fun k => ?_⟩
  have hI : (zextByte (s.getV x) * 5#16).toNat = 5 * d.val := by
    rw [BitVec.toNat_mul, zextByte_toNat, hd, BitVec.toNat_ofNat]
    omega
  calc s.readByte ((zextByte (s.getV x) * 5#16).toNat + k.val) = s.readByte (5 * d.val + k.val) := by rw [hI]
    _ = Memory.unlisted s.cfg.font (5 * d.val + k.val) := hlow _ (by omega)
    _ = s.cfg.font[5 * d.val + k.val] := Memory.unlisted_of_lt _ (by omega)

/-- Settles O51: the pop reads the slot the push wrote. -/
theorem popReturnsThePushedEntry : Obligations.PopReturnsThePushedEntry := by
  refine ⟨fun s w h => ?_, fun s w h => State.push_full w h, fun s h => State.pop_empty h⟩
  refine ⟨_, _, State.push_of_lt w h, ?_, rfl, ?_, s.withStack_keeps (s.stack.set s.sp.val w h) s.sp,
    fun j hj => State.slot_set_of_ne _ w h hj⟩
  · rw [State.pop_of_pos (Nat.succ_pos _)]
    simp
  · rfl

/-! ### A change that a store does not see -/

/-- A change that commutes with the write of one byte commutes with the write of a block. -/
theorem State.writeBytes_comm {f : State → State}
    (hf : ∀ (s : State) a b, (f s).writeByte a b = f (s.writeByte a b)) (bs : List Byte) (a : Nat) (s : State) :
    (f s).writeBytes a bs = f (s.writeBytes a bs) := by
  induction bs generalizing a s with
  | nil => rfl
  | cons b bs ih => rw [State.writeBytes, hf, ih, State.writeBytes]

/-- A store at `I` from a state that differs by such a change, which leaves `I` alone, raises the same status
or gives the same state but for the change. -/
theorem storeAtI_comm {f : State → State} (hf : ∀ (s : State) a b, (f s).writeByte a b = f (s.writeByte a b))
    (hi : (f s).i = s.i) (bs : List Byte) : storeAtI bs (f s) = (storeAtI bs s).map f := by
  unfold storeAtI State.dataBase
  rw [hi, State.writeBytes_comm hf]
  cases checkAll writeCheck s.i.toNat bs.length <;> rfl

/-! ### Slots at or above `SP` -/

/-- Two answers end in one state but for slots at or above its `SP`. -/
def AgreeBelowSp (a a' : Result) : Prop :=
  ∃ (t : State) (k : Vector Word 16), a = .next t ∧ a' = .next { t with stack := k } ∧
    ∀ j : Fin 16, j.val < t.sp.val → k[j] = t.slot j

section
variable {k : Vector Word 16} (hk : ∀ j : Fin 16, j.val < s.sp.val → k[j] = s.slot j)
include hk

theorem skipIf_agreeBelowSp (c : Bool) : AgreeBelowSp (skipIf c s) (skipIf c { s with stack := k }) := by
  cases c with
  | false => exact ⟨_, k, rfl, rfl, hk⟩
  | true => exact ⟨_, k, rfl, rfl, hk⟩

theorem skipIfKey_agreeBelowSp (c : Bool) (x : Reg) :
    AgreeBelowSp (skipIfKey c x s) (skipIfKey c x { s with stack := k }) := by
  have hv : ({ s with stack := k } : State).getV x = s.getV x := rfl
  unfold skipIfKey
  rw [hv]
  cases keyNamed (s.getV x) with
  | none => exact ⟨_, k, rfl, rfl, hk⟩
  | some j => exact skipIf_agreeBelowSp hk _

/-- `00EE` reads the newest entry, which lies below `SP` (41_flow.md R110). -/
theorem execRet_agreeBelowSp : AgreeBelowSp (execRet s) (execRet { s with stack := k }) := by
  obtain h | ⟨j, h⟩ := s.sp_cases
  · exact ⟨_, k, execRet_empty h, execRet_empty (s := { s with stack := k }) h, hk⟩
  · have hj : ({ s with stack := k } : State).slot j = s.slot j := hk j (by omega)
    refine ⟨_, k, execRet_of_entry h, (execRet_of_entry (s := { s with stack := k }) h).trans ?_, fun l hl => ?_⟩
    · rw [hj]
      rfl
    · have hl : l.val < j.val := hl
      exact hk l (by omega)

/-- `2NNN` writes the slot at `SP`, which then lies below it (41_flow.md R112). -/
theorem execCall_agreeBelowSp (nnn : BitVec 12) :
    AgreeBelowSp (execCall nnn s) (execCall nnn { s with stack := k }) := by
  by_cases h : s.sp.val < 16
  · refine ⟨_, k.set s.sp.val s.pc h, execCall_of_lt nnn h, execCall_of_lt (s := { s with stack := k }) nnn h,
      fun j hj => ?_⟩
    have hj : j.val < s.sp.val + 1 := hj
    have hkj := hk j
    simp only [State.slot, State.report, State.setPc, Fin.getElem_fin, Vector.getElem_set] at hkj ⊢
    split
    · rfl
    · exact hkj (by omega)
  · have h : s.sp = 16 := by omega
    exact ⟨_, k, execCall_full nnn h, execCall_full (s := { s with stack := k }) nnn h, hk⟩

theorem execRnd_agreeBelowSp (x : Reg) (nn : Byte) :
    AgreeBelowSp (exec (.rnd x nn) s) (exec (.rnd x nn) { s with stack := k }) := by
  obtain h | ⟨b, h⟩ := Option.eq_none_or_eq_some s.rndIn
  · exact ⟨_, k, exec_rnd_of_none x nn h, exec_rnd_of_none (s := { s with stack := k }) x nn h, hk⟩
  · exact ⟨_, k, exec_rnd_of_some x nn h, exec_rnd_of_some (s := { s with stack := k }) x nn h, hk⟩

theorem execDrw_agreeBelowSp (x y : Reg) (n : Nat) :
    AgreeBelowSp (execDrw x y n s) (execDrw x y n { s with stack := k }) := by
  rw [execDrw_eq x y n { s with stack := k }, execDrw_eq x y n s]
  split
  · exact ⟨_, k, rfl, rfl, hk⟩
  · exact ⟨_, k, rfl, rfl, hk⟩

theorem execLdVxK_agreeBelowSp (x : Reg) :
    AgreeBelowSp (execLdVxK x s) (execLdVxK x { s with stack := k }) := by
  have hl : ({ s with stack := k } : State).lowestKey = s.lowestKey := rfl
  unfold execLdVxK
  rw [hl]
  cases s.lowestKey with
  | none => exact ⟨_, k, rfl, rfl, hk⟩
  | some j => exact ⟨_, k, rfl, rfl, hk⟩

/-- Where a store at `I` writes, `SP` and the slots are those of before. -/
theorem State.writeBytes_slots (a : Nat) (bs : List Byte) (j : Fin 16)
    (hj : j.val < (s.writeBytes a bs).sp.val) : k[j] = (s.writeBytes a bs).slot j := by
  obtain ⟨hsp, hslot⟩ := s.writeBytes_keeps a bs .stack (by decide)
  rw [hslot]
  exact hk j (hsp ▸ hj)

theorem execLdBVx_agreeBelowSp (x : Reg) :
    AgreeBelowSp (execLdBVx x s) (execLdBVx x { s with stack := k }) := by
  have hv : ({ s with stack := k } : State).getV x = s.getV x := rfl
  unfold execLdBVx
  rw [hv, storeAtI_comm (s := s) (f := fun s => { s with stack := k }) (fun _ _ _ => rfl) rfl]
  obtain ⟨e, h⟩ | ⟨-, h⟩ := storeAtI_cases (decimalDigits (s.getV x)) s (by simp)
  · rw [h]
    exact ⟨_, k, rfl, rfl, hk⟩
  · rw [h]
    exact ⟨_, k, rfl, rfl, State.writeBytes_slots hk _ _⟩

theorem execLdMemVx_agreeBelowSp (x : Reg) :
    AgreeBelowSp (execLdMemVx x s) (execLdMemVx x { s with stack := k }) := by
  have hb : ({ s with stack := k } : State).regBlock x = s.regBlock x := rfl
  unfold execLdMemVx
  rw [hb, storeAtI_comm (s := s) (f := fun s => { s with stack := k }) (fun _ _ _ => rfl) rfl]
  obtain ⟨e, h⟩ | ⟨-, h⟩ := storeAtI_cases (s.regBlock x) s (by simp)
  · rw [h]
    exact ⟨_, k, rfl, rfl, hk⟩
  · rw [h]
    exact ⟨_, k, rfl, rfl, State.writeBytes_slots hk _ _⟩

theorem execLdVxMem_agreeBelowSp (x : Reg) :
    AgreeBelowSp (execLdVxMem x s) (execLdVxMem x { s with stack := k }) := by
  rw [execLdVxMem_eq x { s with stack := k }, execLdVxMem_eq x s]
  split
  · exact ⟨_, k, rfl, rfl, by simpa using hk⟩
  · exact ⟨_, k, rfl, rfl, hk⟩

/-- No instruction reads a slot at or above `SP` (10_state.md R30). -/
theorem exec_agreeBelowSp (i : Instr) : AgreeBelowSp (exec i s) (exec i { s with stack := k }) := by
  cases i with
  | cls | jp | ldImm | addImm | ldReg | orReg | andReg | xorReg | addReg | sub | shr | subn | shl | ldI
  | jpV0 | ldVxDt | ldDtVx | ldStVx | addIVx | ldFVx => exact ⟨_, k, rfl, rfl, hk⟩
  | seImm | sneImm | seReg | sneReg => exact skipIf_agreeBelowSp hk _
  | skp x | sknp x => exact skipIfKey_agreeBelowSp hk _ x
  | ret => exact execRet_agreeBelowSp hk
  | call nnn => exact execCall_agreeBelowSp hk nnn
  | rnd x nn => exact execRnd_agreeBelowSp hk x nn
  | drw x y n => exact execDrw_agreeBelowSp hk x y n
  | ldVxK x => exact execLdVxK_agreeBelowSp hk x
  | ldBVx x => exact execLdBVx_agreeBelowSp hk x
  | ldMemVx x => exact execLdMemVx_agreeBelowSp hk x
  | ldVxMem x => exact execLdVxMem_agreeBelowSp hk x

end

/-- Settles O50. -/
theorem staleSlotsHaveNoInfluence : Obligations.StaleSlotsHaveNoInfluence := by
  intro i s t other hk h
  obtain ⟨u, k, hu, hu', hk'⟩ := exec_agreeBelowSp hk i
  obtain rfl : u = t := Host.Outcome.next.inj (hu.symm.trans h)
  exact ⟨k, hu', hk'⟩

/-! ### A register that is not read -/

theorem State.setV_getV_of_ne {x : Reg} (h : r ≠ x) : (s.setV r b).getV x = s.getV x := by
  rw [State.setV_getV, if_neg (Ne.symm h)]

theorem State.setV_setV_same (c : Byte) : (s.setV r b).setV r c = s.setV r c := by
  simp only [State.setV, Vector.set_set]

theorem State.setV_setV_comm {x : Reg} (h : r ≠ x) (c : Byte) :
    (s.setV r b).setV x c = (s.setV x c).setV r b := by
  have hv : (r : Nat) ≠ x := fun e => h (Fin.ext e)
  simp only [State.setV, Vector.set_comm _ _ hv]

/-- Two states that a run from `s` and a run from `s` with `b` in `r` can be in: they differ by that byte
still, and `r` is as it was, or `r` has been overwritten and they are one state. -/
inductive DifferByReg (r : Reg) (b : Byte) (s : State) : State → State → Prop where
  | kept (t : State) (h : t.getV r = s.getV r) : DifferByReg r b s t (t.setV r b)
  | overwritten (t : State) : DifferByReg r b s t t

/-- Two answers with such states. -/
def AgreeButReg (r : Reg) (b : Byte) (s : State) (a a' : Result) : Prop :=
  ∃ t u, a = .next t ∧ a' = .next u ∧ DifferByReg r b s t u

theorem DifferByReg.finish (h : DifferByReg r b s t u) : AgreeButReg r b s (finish t) (finish u) := by
  cases h with
  | kept h => exact ⟨_, _, rfl, rfl, .kept (t.report .ok) h⟩
  | overwritten => exact ⟨_, _, rfl, rfl, .overwritten _⟩

/-- One byte written to one register of both states. -/
theorem DifferByReg.setV (h : DifferByReg r b s t u) (x : Reg) {c c' : Byte} (hc : c' = c) :
    DifferByReg r b s (t.setV x c) (u.setV x c') := by
  subst hc
  cases h with
  | kept h =>
    by_cases hx : r = x
    · subst hx
      rw [State.setV_setV_same]
      exact .overwritten _
    · rw [State.setV_setV_comm hx]
      exact .kept _ ((State.setV_getV_of_ne (Ne.symm hx)).trans h)
  | overwritten => exact .overwritten _

theorem DifferByReg.setNr (h : DifferByReg r b s t u) (c : Bool) :
    DifferByReg r b s (t.setNr c) (u.setNr c) := by
  cases h with
  | kept h => exact .kept (t.setNr c) h
  | overwritten => exact .overwritten _

/-- A meaning that writes Vx alone. -/
theorem agreeButReg_setV (x : Reg) {c c' : Byte} (hc : c' = c) :
    AgreeButReg r b s (finish (s.setV x c)) (finish ((s.setV r b).setV x c')) :=
  ((DifferByReg.kept s rfl).setV x hc).finish

/-- A meaning that writes a result to Vx and then a flag to VF. -/
theorem agreeButReg_setResultThenFlag (x : Reg) {c c' d d' : Byte} (hc : c' = c) (hd : d' = d) :
    AgreeButReg r b s (finish (s.setResultThenFlag x c d)) (finish ((s.setV r b).setResultThenFlag x c' d')) :=
  (((DifferByReg.kept s rfl).setV x hc).setV regF hd).finish

/-- A meaning that writes no register, and computes the same as without the change. -/
theorem agreeButReg_pass (hu : u = t.setV r b) (ht : t.getV r = s.getV r) :
    AgreeButReg r b s (finish t) (finish u) := by
  subst hu
  exact (DifferByReg.kept t ht).finish

theorem agreeButReg_raise {e e' : Status} (he : e' = e) :
    AgreeButReg r b s (raise e s) (raise e' (s.setV r b)) := by
  subst he
  exact ⟨_, _, rfl, rfl, .kept (s.report e') rfl⟩

theorem skipIf_agreeButReg {c c' : Bool} (hc : c' = c) :
    AgreeButReg r b s (skipIf c s) (skipIf c' (s.setV r b)) := by
  subst hc
  cases c' with
  | false => exact agreeButReg_pass rfl rfl
  | true => exact agreeButReg_pass rfl rfl

theorem skipIfKey_agreeButReg (c : Bool) {x : Reg} (hx : r ≠ x) :
    AgreeButReg r b s (skipIfKey c x s) (skipIfKey c x (s.setV r b)) := by
  unfold skipIfKey
  rw [State.setV_getV_of_ne hx]
  cases keyNamed (s.getV x) with
  | none => exact agreeButReg_raise rfl
  | some k => exact skipIf_agreeButReg rfl

theorem execRet_agreeButReg : AgreeButReg r b s (execRet s) (execRet (s.setV r b)) := by
  obtain h | ⟨j, h⟩ := s.sp_cases
  · rw [execRet_empty h, execRet_empty (s := s.setV r b) h]
    exact agreeButReg_raise rfl
  · rw [execRet_of_entry h, execRet_of_entry (s := s.setV r b) h]
    exact agreeButReg_pass rfl rfl

theorem execCall_agreeButReg (nnn : BitVec 12) :
    AgreeButReg r b s (execCall nnn s) (execCall nnn (s.setV r b)) := by
  by_cases h : s.sp.val < 16
  · rw [execCall_of_lt nnn h, execCall_of_lt (s := s.setV r b) nnn h]
    exact agreeButReg_pass rfl rfl
  · have h : s.sp = 16 := by omega
    rw [execCall_full nnn h, execCall_full (s := s.setV r b) nnn h]
    exact agreeButReg_raise rfl

theorem execRnd_agreeButReg (x : Reg) (nn : Byte) :
    AgreeButReg r b s (exec (.rnd x nn) s) (exec (.rnd x nn) (s.setV r b)) := by
  obtain h | ⟨c, h⟩ := Option.eq_none_or_eq_some s.rndIn
  · rw [exec_rnd_of_none x nn h, exec_rnd_of_none (s := s.setV r b) x nn h]
    have h0 : DifferByReg r b s (s.withEnv s.cfg none (s.draws + 1))
        ((s.setV r b).withEnv s.cfg none (s.draws + 1)) := .kept _ rfl
    exact (h0.setV x rfl).finish
  · rw [exec_rnd_of_some x nn h, exec_rnd_of_some (s := s.setV r b) x nn h]
    have h0 : DifferByReg r b s (s.withEnv s.cfg none s.draws) ((s.setV r b).withEnv s.cfg none s.draws) :=
      .kept _ rfl
    exact (h0.setV x rfl).finish

/-- A sprite's place is read from Vx and Vy alone; VF may be the changed register, and is then overwritten. -/
theorem execDrw_agreeButReg {x y : Reg} (n : Nat) (hx : r ≠ x) (hy : r ≠ y) :
    AgreeButReg r b s (execDrw x y n s) (execDrw x y n (s.setV r b)) := by
  have hp : (s.setV r b).drawnPixels x y n = s.drawnPixels x y n := by
    unfold State.drawnPixels
    rw [State.setV_getV_of_ne hx, State.setV_getV_of_ne hy]
    rfl
  have h0 (f : Framebuffer) : DifferByReg r b s (s.setFb f) ((s.setV r b).setFb f) := .kept _ rfl
  rw [execDrw_eq, execDrw_eq, hp, State.setV_i]
  split
  · exact (((h0 _).setV regF rfl).setNr true).finish
  · exact agreeButReg_raise rfl

theorem execLdVxK_agreeButReg (x : Reg) :
    AgreeButReg r b s (execLdVxK x s) (execLdVxK x (s.setV r b)) := by
  have hl : (s.setV r b).lowestKey = s.lowestKey := rfl
  unfold execLdVxK
  rw [hl]
  cases s.lowestKey with
  | none => exact agreeButReg_pass rfl rfl
  | some j => exact agreeButReg_setV x rfl

theorem State.setV_shiftOperand {x y : Reg} (hx : r ≠ x) (hy : ¬ (s.cfg.shift = .fromY ∧ r = y)) :
    (s.setV r b).shiftOperand x y = s.shiftOperand x y := by
  unfold State.shiftOperand
  rw [State.setV_cfg]
  cases hs : s.cfg.shift with
  | fromY => exact State.setV_getV_of_ne fun e => hy ⟨hs, e⟩
  | inPlace => exact State.setV_getV_of_ne hx

theorem State.setV_regBlock {x : Reg} (hx : ¬ r ≤ x) : (s.setV r b).regBlock x = s.regBlock x := by
  refine List.ext_getElem (by simp) fun n h h' => ?_
  have hn : n < x.val + 1 := by simpa using h
  have hx16 := x.isLt
  rw [State.regBlock_getElem x ⟨n, by omega⟩ h, State.regBlock_getElem x ⟨n, by omega⟩ h']
  exact State.setV_getV_of_ne fun e => hx (by rw [e, Fin.le_def]; exact Nat.le_of_lt_succ hn)

theorem State.writeBytes_getV (a : Nat) (bs : List Byte) (q : Reg) :
    (s.writeBytes a bs).getV q = s.getV q :=
  s.writeBytes_keeps a bs .regs (by decide) q

theorem execLdBVx_agreeButReg {x : Reg} (hx : r ≠ x) :
    AgreeButReg r b s (execLdBVx x s) (execLdBVx x (s.setV r b)) := by
  unfold execLdBVx
  rw [State.setV_getV_of_ne hx, storeAtI_comm (s := s) (f := (·.setV r b)) (fun _ _ _ => rfl) rfl]
  obtain ⟨e, h⟩ | ⟨-, h⟩ := storeAtI_cases (decimalDigits (s.getV x)) s (by simp)
  · rw [h]
    exact agreeButReg_raise rfl
  · rw [h]
    exact agreeButReg_pass rfl (State.writeBytes_getV _ _ _)

theorem execLdMemVx_agreeButReg {x : Reg} (hx : ¬ r ≤ x) :
    AgreeButReg r b s (execLdMemVx x s) (execLdMemVx x (s.setV r b)) := by
  unfold execLdMemVx
  rw [State.setV_regBlock hx, storeAtI_comm (s := s) (f := (·.setV r b)) (fun _ _ _ => rfl) rfl]
  obtain ⟨e, h⟩ | ⟨-, h⟩ := storeAtI_cases (s.regBlock x) s (by simp)
  · rw [h]
    exact agreeButReg_raise rfl
  · rw [h]
    exact agreeButReg_pass rfl (State.writeBytes_getV _ _ _)

/-- The registers after `FX65` from a state with another byte in `r`: the byte is overwritten where `r` is
among V0 to Vx, and is still there where `r` lies above. -/
theorem State.setV_loadedRegs (x : Reg) (a : Nat) :
    (s.setV r b).loadedRegs x a = if r ≤ x then s.loadedRegs x a else (s.loadedRegs x a).set r b := by
  by_cases hr : r ≤ x
  · rw [if_pos hr]
    refine Vector.ext fun n hn => ?_
    simp only [State.loadedRegs, Vector.getElem_ofFn, State.setV_readByte]
    split
    · rfl
    · next hx => exact State.setV_getV_of_ne fun e => hx (e ▸ hr)
  · rw [if_neg hr]
    refine Vector.ext fun n hn => ?_
    simp only [State.loadedRegs, Vector.getElem_ofFn, Vector.getElem_set, State.setV_readByte, State.setV_getV,
      Fin.ext_iff]
    by_cases hnr : n = r.val
    · subst hnr
      rw [if_neg hr, if_pos rfl, if_pos rfl]
    · rw [if_neg hnr, if_neg (Ne.symm hnr)]

theorem execLdVxMem_agreeButReg (x : Reg) :
    AgreeButReg r b s (execLdVxMem x s) (execLdVxMem x (s.setV r b)) := by
  have hi : (s.setV r b).indexAfterMove x = s.indexAfterMove x := rfl
  have hkept (hr : ¬ r ≤ x) : ((s.setRegs (s.loadedRegs x s.i.toNat)).setI (s.indexAfterMove x)).getV r =
      s.getV r := by
    rw [State.setI_getV, State.setRegs_loadedRegs_getV, if_neg hr]
  rw [execLdVxMem_eq, execLdVxMem_eq, hi, State.setV_i, State.setV_loadedRegs]
  generalize s.loadedRegs x s.i.toNat = v at hkept ⊢
  split
  · by_cases hr : r ≤ x
    · rw [if_pos hr]
      exact (DifferByReg.overwritten ((s.setRegs v).setI (s.indexAfterMove x))).finish
    · rw [if_neg hr]
      exact agreeButReg_pass rfl (hkept hr)
  · exact agreeButReg_raise rfl

/-- A register the table of R23 does not list as read has no influence but on itself. -/
theorem exec_agreeButReg (h : ¬ ReadsReg s.cfg i r) : AgreeButReg r b s (exec i s) (exec i (s.setV r b)) := by
  cases i with
  | cls | jp | ldI => exact agreeButReg_pass rfl rfl
  | ldImm x | ldVxDt x => exact agreeButReg_setV x rfl
  | addImm x nn => exact agreeButReg_setV x (congrArg (sumByte · nn) (State.setV_getV_of_ne h))
  | ldReg x y => exact agreeButReg_setV x (State.setV_getV_of_ne h)
  | orReg x y | andReg x y | xorReg x y | addReg x y | sub x y | subn x y =>
    obtain ⟨hx, hy⟩ := not_or.mp h
    exact agreeButReg_setResultThenFlag x (by simp only [State.setV_getV_of_ne hx, State.setV_getV_of_ne hy])
      (by simp only [State.setV_getV_of_ne hx, State.setV_getV_of_ne hy])
  | shr x y | shl x y =>
    obtain ⟨hx, hy⟩ := not_or.mp h
    exact agreeButReg_setResultThenFlag x (by rw [State.setV_shiftOperand hx hy])
      (by rw [State.setV_getV_of_ne hx])
  | ldDtVx x => exact agreeButReg_pass (congrArg (s.setV r b).setDt (State.setV_getV_of_ne h)) rfl
  | ldStVx x => exact agreeButReg_pass (congrArg (s.setV r b).setSt (State.setV_getV_of_ne h)) rfl
  | addIVx x =>
    exact agreeButReg_pass (congrArg (fun c => (s.setV r b).setI (s.i + zextByte c)) (State.setV_getV_of_ne h)) rfl
  | ldFVx x =>
    exact agreeButReg_pass (congrArg (fun c => (s.setV r b).setI (zextByte c * 5#16)) (State.setV_getV_of_ne h)) rfl
  | jpV0 nnn =>
    exact agreeButReg_pass
      (congrArg (fun c => (s.setV r b).setPc (zextByte c + zextAddr nnn)) (State.setV_getV_of_ne h)) rfl
  | seImm x nn => exact skipIf_agreeButReg (congrArg (· == nn) (State.setV_getV_of_ne h))
  | sneImm x nn => exact skipIf_agreeButReg (congrArg (· != nn) (State.setV_getV_of_ne h))
  | seReg x y | sneReg x y =>
    obtain ⟨hx, hy⟩ := not_or.mp h
    exact skipIf_agreeButReg (by rw [State.setV_getV_of_ne hx, State.setV_getV_of_ne hy])
  | skp x | sknp x => exact skipIfKey_agreeButReg _ h
  | ret => exact execRet_agreeButReg
  | call nnn => exact execCall_agreeButReg nnn
  | rnd x nn => exact execRnd_agreeButReg x nn
  | drw x y n =>
    obtain ⟨hx, hy⟩ := not_or.mp h
    exact execDrw_agreeButReg n hx hy
  | ldVxK x => exact execLdVxK_agreeButReg x
  | ldBVx x => exact execLdBVx_agreeButReg h
  | ldMemVx x => exact execLdMemVx_agreeButReg h
  | ldVxMem x => exact execLdVxMem_agreeButReg x

/-- Settles O48: the two answers differ by the byte in `r`, or not at all. -/
theorem registersNotReadHaveNoInfluence : Obligations.RegistersNotReadHaveNoInfluence := by
  intro i s t r b hr h
  obtain ⟨t', u, ht, hu, hd⟩ := exec_agreeButReg (b := b) hr
  obtain rfl : t' = t := Host.Outcome.next.inj (ht.symm.trans h)
  refine ⟨u, hu, ?_⟩
  cases hd with
  | kept hk => exact ⟨rfl, t'.setV_keeps r b, t'.setV_keepsRegs r b, .inr ⟨hk, by simp⟩⟩
  | overwritten => exact ⟨rfl, .refl _ t', fun _ _ => rfl, .inl rfl⟩

end Sys2Proof.Machine
end

section
/-! SUPPORT. Proofs of the statements of 20_memory.md: the fetch of a step (R56), and its agreement with
what `FX55` stored (R62). -/

namespace Sys2Proof.Machine

variable {s t : State} {x : Reg}

/-! ### `FX55` -/

/-- Everything an `FX55` can answer (44_index_memory.md R154, R156; 20_memory.md R55, R57). -/
theorem execLdMemVx_eq (x : Reg) (s : State) :
    execLdMemVx x s =
      if s.i.toNat < 0x200 then raise (.writeProtected s.i.toNat) s
      else if s.i.toNat + blockLength x ≤ 0x1000 then
        finish ((s.writeBytes s.i.toNat (s.regBlock x)).setI (s.indexAfterMove x))
      else raise (.addressOutOfRange (max s.i.toNat 0x1000)) s := by
  rw [execLdMemVx, storeAtI_eq _ s (by simp), State.regBlock_length, blockLength]
  by_cases hlow : s.i.toNat < 0x200
  · simp only [if_pos hlow]
  · by_cases hin : s.i.toNat + (x.val + 1) ≤ 0x1000
    · simp only [if_neg hlow, if_pos hin]
    · simp only [if_neg hlow, if_neg hin]

/-- An `FX55` that reports `OK` ran inside memory, and is the block write and the move of `I`. -/
theorem execLdMemVx_of_ok (h : execLdMemVx x s = .next t) (hok : t.status = .ok) :
    s.i.toNat + x.val < 0x1000 ∧
      t = ((s.writeBytes s.i.toNat (s.regBlock x)).setI (s.indexAfterMove x)).report .ok := by
  rw [execLdMemVx_eq] at h
  split at h
  · cases h; cases hok
  · split at h
    · next hx => exact ⟨hx, (Host.Outcome.next.inj h).symm⟩
    · cases h; cases hok

/-- Inside the block of V0 to Vx, each byte reads as its register (R154). -/
theorem State.writeBytes_regBlock_readByte (s : State) (a : Nat) {k : Reg} (hk : k ≤ x) :
    (s.writeBytes a (s.regBlock x)).readByte (a + k.val) = s.getV k := by
  have hlen : k.val < (s.regBlock x).length := by
    rw [State.regBlock_length]
    exact Nat.lt_succ_of_le hk
  rw [State.writeBytes_readByte, dif_pos ⟨Nat.le_add_right a k.val, by rwa [Nat.add_sub_cancel_left]⟩]
  simp only [Nat.add_sub_cancel_left, State.regBlock_getElem x k hlen]

/-- After an `FX55` that reports `OK`, byte `k` of the block reads as V[k]. -/
theorem execLdMemVx_readByte (h : execLdMemVx x s = .next t) (hok : t.status = .ok) {k : Reg} (hk : k ≤ x) :
    t.readByte (s.i.toNat + k.val) = s.getV k := by
  obtain ⟨-, rfl⟩ := execLdMemVx_of_ok h hok
  exact s.writeBytes_regBlock_readByte s.i.toNat hk

/-! ### Fetch and advance -/

/-- In range, a fetch at `a` reads the big-endian word there, whatever `PC` was before (R56). -/
theorem fetch_setPc {a : Word} (h : a.toNat + 1 < 0x1000) : fetch (s.setPc a) = .ok (s.wordAt a.toNat) :=
  fetch_ok h

/-- The advance adds 2 to `PC` modulo 2^16 (30_encoding.md R71). -/
theorem State.advance_pc_toNat (s : State) : s.advance.pc.toNat = (s.pc.toNat + 2) % 65536 := by
  rw [State.advance_pc, BitVec.toNat_add]
  rfl

/-! ### The statements -/

/-- Settles O32: both bytes lie in the block, the first at `a` and the second at `a + 1`. -/
theorem storedBytesAreFetched : Obligations.StoredBytesAreFetched := by
  intro s t x k l a h hok hl hlk ha
  have hin : s.i.toNat + x.val < 0x1000 := (execLdMemVx_of_ok h hok).1
  have hl' : l.val ≤ x.val := hl
  have hk : k ≤ x := Fin.le_def.mpr (by omega)
  have hhi : t.readByte a.toNat = s.getV k := ha ▸ execLdMemVx_readByte h hok hk
  have hlo : t.readByte (a.toNat + 1) = s.getV l := by
    rw [← execLdMemVx_readByte h hok hl, ha, hlk, Nat.add_assoc]
  rw [fetch_setPc (by omega), State.wordAt, hhi, hlo]

/-- Settles O2: the three ends of a step (R56, R71, R72), then what the advance and the word are. -/
theorem stepFetchesAdvancesDecodesExecutes : Obligations.StepFetchesAdvancesDecodesExecutes := by
  refine ⟨fun s h => ?_, fun s h hd => ?_, fun s i h hd => ?_, fun s => ?_, fun s a => ?_⟩
  · exact ⟨_, step_of_fetch_fault h, s.report_raisedFrom nofun⟩
  · exact ⟨_, step_of_illegal h hd, s.advance.report_raisedFrom nofun⟩
  · exact step_of_decode h hd
  · exact ⟨s.advance_pc_toNat, s.setPc_keeps _, s.advance_status⟩
  · exact wordOfBytes_toNat _ _

end Sys2Proof.Machine
end

section
/-! SUPPORT. Proofs of the statements of 30_encoding.md: decoding and encoding undo each other (R79, R83), a
word is an instruction of exactly the row of R78 that it matches, and the illegal words are those of R80.
Everything but the last rests on three facts: the encoder writes a word of the instruction's row
(`encode_mem_row`), a word of a row decodes to that row's instruction with the word's own fields as operands
(`decode_of_mem_row`), and a word that decodes is the encoding of what it decodes to (`encode_of_decode`). -/

namespace Sys2Proof

variable {w : Word} {i : Instr}

/-! ### A word from the fields a row fixes -/

theorem wordNNN_of_op {op : BitVec 4} (hop : (fieldOp w).toNat = op.toNat) :
    wordNNN op (fieldNNN w) = w := by
  rw [← BitVec.eq_of_toNat_eq hop, wordNNN_fields]

theorem wordXNN_of_op {op : BitVec 4} (hop : (fieldOp w).toNat = op.toNat) :
    wordXNN op (fieldX w) (fieldNN w) = w := by
  rw [← BitVec.eq_of_toNat_eq hop, wordXNN_fields]

theorem wordXNN_of_op_of_low {op : BitVec 4} {nn : Byte} (hop : (fieldOp w).toNat = op.toNat)
    (hnn : (fieldNN w).toNat = nn.toNat) : wordXNN op (fieldX w) nn = w := by
  rw [← BitVec.eq_of_toNat_eq hnn, wordXNN_of_op hop]

theorem wordXYN_of_op_of_nibble {op n : BitVec 4} (hop : (fieldOp w).toNat = op.toNat)
    (hn : (fieldN w).toNat = n.toNat) : wordXYN op (fieldX w) (fieldY w) n = w := by
  rw [← BitVec.eq_of_toNat_eq hop, ← BitVec.eq_of_toNat_eq hn, wordXYN_fields]

/-! ### The encoder writes a word of the row -/

open Laws.EncodesRow in
/-- The laws of `Laws.EncodesRow`, as one. -/
theorem encode_mem_row : (i : Instr) → encode i &&& i.mask = i.matchWord
  | .cls => cls | .ret => ret | .jp nnn => jp nnn | .call nnn => call nnn
  | .seImm x nn => seImm x nn | .sneImm x nn => sneImm x nn | .seReg x y => seReg x y
  | .ldImm x nn => ldImm x nn | .addImm x nn => addImm x nn | .ldReg x y => ldReg x y
  | .orReg x y => orReg x y | .andReg x y => andReg x y | .xorReg x y => xorReg x y
  | .addReg x y => addReg x y | .sub x y => sub x y | .shr x y => shr x y | .subn x y => subn x y
  | .shl x y => shl x y | .sneReg x y => sneReg x y | .ldI nnn => ldI nnn | .jpV0 nnn => jpV0 nnn
  | .rnd x nn => rnd x nn | .drw x y n => drw x y n | .skp x => skp x | .sknp x => sknp x
  | .ldVxDt x => ldVxDt x | .ldVxK x => ldVxK x | .ldDtVx x => ldDtVx x | .ldStVx x => ldStVx x
  | .addIVx x => addIVx x | .ldFVx x => ldFVx x | .ldBVx x => ldBVx x | .ldMemVx x => ldMemVx x
  | .ldVxMem x => ldVxMem x

/-! ### A word of a row decodes to that row -/

/-- The instruction of the row of `i` whose operands are the fields of `w` (R74). -/
def Instr.withFields (w : Word) : Instr → Instr
  | .cls => .cls
  | .ret => .ret
  | .jp _ => .jp (fieldNNN w)
  | .call _ => .call (fieldNNN w)
  | .seImm _ _ => .seImm (fieldX w) (fieldNN w)
  | .sneImm _ _ => .sneImm (fieldX w) (fieldNN w)
  | .seReg _ _ => .seReg (fieldX w) (fieldY w)
  | .ldImm _ _ => .ldImm (fieldX w) (fieldNN w)
  | .addImm _ _ => .addImm (fieldX w) (fieldNN w)
  | .ldReg _ _ => .ldReg (fieldX w) (fieldY w)
  | .orReg _ _ => .orReg (fieldX w) (fieldY w)
  | .andReg _ _ => .andReg (fieldX w) (fieldY w)
  | .xorReg _ _ => .xorReg (fieldX w) (fieldY w)
  | .addReg _ _ => .addReg (fieldX w) (fieldY w)
  | .sub _ _ => .sub (fieldX w) (fieldY w)
  | .shr _ _ => .shr (fieldX w) (fieldY w)
  | .subn _ _ => .subn (fieldX w) (fieldY w)
  | .shl _ _ => .shl (fieldX w) (fieldY w)
  | .sneReg _ _ => .sneReg (fieldX w) (fieldY w)
  | .ldI _ => .ldI (fieldNNN w)
  | .jpV0 _ => .jpV0 (fieldNNN w)
  | .rnd _ _ => .rnd (fieldX w) (fieldNN w)
  | .drw _ _ _ => .drw (fieldX w) (fieldY w) (fieldN w).toNat
  | .skp _ => .skp (fieldX w)
  | .sknp _ => .sknp (fieldX w)
  | .ldVxDt _ => .ldVxDt (fieldX w)
  | .ldVxK _ => .ldVxK (fieldX w)
  | .ldDtVx _ => .ldDtVx (fieldX w)
  | .ldStVx _ => .ldStVx (fieldX w)
  | .addIVx _ => .addIVx (fieldX w)
  | .ldFVx _ => .ldFVx (fieldX w)
  | .ldBVx _ => .ldBVx (fieldX w)
  | .ldMemVx _ => .ldMemVx (fieldX w)
  | .ldVxMem _ => .ldVxMem (fieldX w)

@[simp] theorem Instr.withFields_mask (w : Word) (i : Instr) : (i.withFields w).mask = i.mask := by
  cases i <;> rfl

@[simp] theorem Instr.withFields_matchWord (w : Word) (i : Instr) :
    (i.withFields w).matchWord = i.matchWord := by
  cases i <;> rfl

/-- The fields of its encoding are a well-formed instruction's operands; only the row count of `DXYN` could
lose a bit, and `WellFormed` bounds it. -/
theorem Instr.withFields_encode (h : WellFormed i) : i.withFields (encode i) = i := by
  cases i
  case drw x y n =>
    have hn : n < 16 := Nat.lt_succ_of_le (of_decide_eq_true h)
    simp [encode, Instr.withFields, Nat.mod_eq_of_lt hn]
  all_goals simp [encode, Instr.withFields]

/-- `fieldOp_of_mask` with the match word left open, so that one call serves every row with the mask. -/
theorem fieldOp_of_mem_row {m : Word} (h : w &&& 0xF000#16 = m) :
    (fieldOp w).toNat = m.toNat / 4096 := by
  rw [← wordNNN_fields w, wordNNN_mask] at h
  rw [← h, ← fieldOp_toNat, fieldOp_wordNNN]

/-- `fields_of_mask_nibble` with the match word left open. -/
theorem fieldOp_fieldN_of_mem_row {m : Word} (h : w &&& 0xF00F#16 = m) :
    (fieldOp w).toNat = m.toNat / 4096 ∧ (fieldN w).toNat = m.toNat % 16 := by
  rw [← wordXYN_fields w, wordXYN_mask_low] at h
  rw [← h, ← fieldOp_toNat, ← fieldN_toNat, fieldOp_wordXYN, fieldN_wordXYN]
  exact ⟨rfl, rfl⟩

/-- `fields_of_mask_low` with the match word left open. -/
theorem fieldOp_fieldNN_of_mem_row {m : Word} (h : w &&& 0xF0FF#16 = m) :
    (fieldOp w).toNat = m.toNat / 4096 ∧ (fieldNN w).toNat = m.toNat % 256 := by
  rw [← wordXNN_fields w, wordXNN_mask_low] at h
  rw [← h, ← fieldOp_toNat, ← fieldNN_toNat, fieldOp_wordXNN, fieldNN_wordXNN]
  exact ⟨rfl, rfl⟩

/-- R78, R79: a word of a row decodes to the row's instruction, its operands read from the word. A case for
each mask, and for the group of R79 that the word falls into. (Under `IsEncoding`, this is every row.) -/
theorem decode_of_mem_row (h : w &&& i.mask = i.matchWord) : decode w = some (i.withFields w) := by
  cases i
  case cls | ret =>
    obtain rfl := BitVec.and_allOnes.symm.trans h
    rfl
  case jp | call | seImm | sneImm | ldImm | addImm | ldI | jpV0 | rnd | drw =>
    simp [decode, fieldOp_of_mem_row h, Instr.matchWord, Instr.withFields]
  case seReg | sneReg =>
    obtain ⟨hop, hn⟩ := fieldOp_fieldN_of_mem_row h
    simp [decode, hop, BitVec.toNat_eq, hn, Instr.matchWord, Instr.withFields]
  case ldReg | orReg | andReg | xorReg | addReg | sub | shr | subn | shl =>
    obtain ⟨hop, hn⟩ := fieldOp_fieldN_of_mem_row h
    simp [decode, decode8, hop, hn, Instr.matchWord, Instr.withFields]
  case skp | sknp =>
    obtain ⟨hop, hnn⟩ := fieldOp_fieldNN_of_mem_row h
    simp [decode, decodeE, hop, hnn, Instr.matchWord, Instr.withFields]
  case ldVxDt | ldVxK | ldDtVx | ldStVx | addIVx | ldFVx | ldBVx | ldMemVx | ldVxMem =>
    obtain ⟨hop, hnn⟩ := fieldOp_fieldNN_of_mem_row h
    simp [decode, decodeF, hop, hnn, Instr.matchWord, Instr.withFields]

/-! ### A word that decodes is the encoding of what it decodes to -/

theorem encode_of_decode0 (h : decode0 w = some i) : WellFormed i ∧ encode i = w := by
  unfold decode0 at h
  split at h
  · next hw => cases h; exact ⟨rfl, hw.symm⟩
  · split at h
    · next hw => cases h; exact ⟨rfl, hw.symm⟩
    · cases h

theorem encode_of_decode8 (hop : (fieldOp w).toNat = 0x8) (h : decode8 w = some i) :
    WellFormed i ∧ encode i = w := by
  unfold decode8 at h
  split at h <;> cases h
  all_goals next hn => exact ⟨rfl, wordXYN_of_op_of_nibble hop hn⟩

theorem encode_of_decodeE (hop : (fieldOp w).toNat = 0xE) (h : decodeE w = some i) :
    WellFormed i ∧ encode i = w := by
  unfold decodeE at h
  split at h <;> cases h
  all_goals next hnn => exact ⟨rfl, wordXNN_of_op_of_low hop hnn⟩

theorem encode_of_decodeF (hop : (fieldOp w).toNat = 0xF) (h : decodeF w = some i) :
    WellFormed i ∧ encode i = w := by
  unfold decodeF at h
  split at h <;> cases h
  all_goals next hnn => exact ⟨rfl, wordXNN_of_op_of_low hop hnn⟩

/-- The groups of R79 by primary opcode, in the order of `decode`. -/
theorem encode_of_decode (h : decode w = some i) : WellFormed i ∧ encode i = w := by
  have hlt := (fieldOp w).isLt
  unfold decode at h
  split at h
  case h_1 => exact encode_of_decode0 h
  case h_2 hop | h_3 hop | h_11 hop | h_12 hop => cases h; exact ⟨rfl, wordNNN_of_op hop⟩
  case h_4 hop | h_5 hop | h_7 hop | h_8 hop | h_13 hop => cases h; exact ⟨rfl, wordXNN_of_op hop⟩
  case h_6 hop | h_10 hop =>
    split at h
    · next hn => cases h; exact ⟨rfl, wordXYN_of_op_of_nibble hop (congrArg BitVec.toNat hn)⟩
    · cases h
  case h_9 hop => exact encode_of_decode8 hop h
  case h_14 hop =>
    cases h
    exact ⟨decide_eq_true (by omega), wordXYN_of_op_of_nibble hop (by simp)⟩
  case h_15 hop => exact encode_of_decodeE hop h
  case h_16 => exact encode_of_decodeF (by grind) h

/-! ### Illegal words -/

theorem decode0_eq_none_iff : decode0 w = none ↔ w.toNat ≠ 0x00E0 ∧ w.toNat ≠ 0x00EE := by
  unfold decode0
  split
  · next h => simp [h]
  · next h =>
    split
    · next h' => simp [h']
    · next h' => simpa [BitVec.toNat_eq] using And.intro h h'

theorem decode8_eq_none_iff :
    decode8 w = none ↔ (fieldN w).toNat ∈ [0x8, 0x9, 0xA, 0xB, 0xC, 0xD, 0xF] := by
  have hlt := (fieldN w).isLt
  unfold decode8
  split
  case h_10 => simp only [List.mem_cons, List.not_mem_nil, or_false, true_iff]; grind
  all_goals next hn => simp [hn]

theorem decodeE_eq_none_iff : decodeE w = none ↔ (fieldNN w).toNat ∉ [0x9E, 0xA1] := by
  unfold decodeE
  split
  case h_3 => simp_all
  all_goals next hnn => simp [hnn]

theorem decodeF_eq_none_iff : decodeF w = none ↔
    (fieldNN w).toNat ∉ [0x07, 0x0A, 0x15, 0x18, 0x1E, 0x29, 0x33, 0x55, 0x65] := by
  unfold decodeF
  split
  case h_10 => simp_all
  all_goals next hnn => simp [hnn]

/-- Which words decode to nothing, group by group of R79. -/
theorem decode_eq_none_iff : decode w = none ↔
    ((fieldOp w).toNat = 0x0 ∧ decode0 w = none) ∨
    (((fieldOp w).toNat = 0x5 ∨ (fieldOp w).toNat = 0x9) ∧ (fieldN w).toNat ≠ 0) ∨
    ((fieldOp w).toNat = 0x8 ∧ decode8 w = none) ∨
    ((fieldOp w).toNat = 0xE ∧ decodeE w = none) ∨
    ((fieldOp w).toNat = 0xF ∧ decodeF w = none) := by
  have hlt := (fieldOp w).isLt
  unfold decode
  split
  case h_16 =>
    have hop : (fieldOp w).toNat = 0xF := by grind
    simp [hop]
  all_goals next hop => simp [hop, BitVec.toNat_eq]

/-! ### The statements -/

/-- Settles O4: the encoding lies in the instruction's row, and has its operands as fields. -/
theorem decodeOfEncodeIsIdentity : Obligations.DecodeOfEncodeIsIdentity := by
  intro i hi
  rw [decode_of_mem_row (encode_mem_row i), Instr.withFields_encode hi]

/-- Settles O5. -/
theorem encodeOfDecodeIsIdentity : Obligations.EncodeOfDecodeIsIdentity :=
  fun _ _ => encode_of_decode

/-- Settles O6: a word of a row decodes to an instruction of the row, so two rows of one word are the row of
the one instruction it decodes to. -/
theorem matchAndMaskSelectOneRow : Obligations.MatchAndMaskSelectOneRow := by
  refine ⟨fun w i h => ?_, fun w i h => ?_, fun w i j hi hj => ?_⟩
  · obtain ⟨-, rfl⟩ := encode_of_decode h
    exact encode_mem_row i
  · exact ⟨_, decode_of_mem_row h, i.withFields_mask w, i.withFields_matchWord w⟩
  · have h : i.withFields w = j.withFields w :=
      Option.some.inj ((decode_of_mem_row hi).symm.trans (decode_of_mem_row hj))
    rw [← i.withFields_matchWord w, ← i.withFields_mask w, h, j.withFields_matchWord, j.withFields_mask]
    exact ⟨rfl, rfl⟩

/-- Settles O7: the illegal words of each group of R79, with the fields as numbers. -/
theorem illegalWordsAreTheListedOnes : Obligations.IllegalWordsAreTheListedOnes := by
  intro w
  have hlow : w.toNat / 0x1000 = 0 ↔ w.toNat < 0x1000 := by omega
  rw [decode_eq_none_iff, decode0_eq_none_iff, decode8_eq_none_iff, decodeE_eq_none_iff,
    decodeF_eq_none_iff, fieldOp_toNat, fieldN_toNat, fieldNN_toNat, hlow]

/-- Settles O3: the words of R75 and R78, decoded. -/
theorem sampleWordsDecode : Obligations.SampleWordsDecode := by
  unfold Obligations.SampleWordsDecode
  decide

end Sys2Proof
end

section
/-! SUPPORT. Proofs of the statements of 40_display.md. What a completed draw leaves is one state,
`State.drawn`; which pixels it flips, what VF says of them, and what it keeps are lemmas about that state.
A second draw covers the same pixels as the first (`SpriteCovers.congr`), since a draw keeps the sprite's
bytes, `I` and the configuration. -/

namespace Sys2Proof.Machine

variable {s t : State} {x y : Reg} {n : Nat} {p : Fin 64 × Fin 32}

/-! ### The flag -/

theorem flagByte_eq_one {b : Bool} : flagByte b = 1#8 ↔ b = true := by cases b <;> decide

theorem flagByte_eq_zero {b : Bool} : flagByte b = 0#8 ↔ ¬ b = true := by cases b <;> decide

/-! ### What a completed draw leaves -/

/-- The state in which a `DXYN` that raises nothing completes (R101). -/
def State.drawn (s : State) (x y : Reg) (n : Nat) : State :=
  ((s.setFb (s.fb.flipAll (s.drawnPixels x y n))).setV regF
    (flagByte (s.fb.anyOn (s.drawnPixels x y n)))).setNr true

/-- The sprite lies in memory: the draw completes. -/
theorem exec_drw_of_fits (h : n = 0 ∨ s.i.toNat + n ≤ 0x1000) :
    exec (.drw x y n) s = finish (s.drawn x y n) :=
  (execDrw_eq x y n s).trans (if_pos h)

/-- It does not: the draw raises. -/
theorem exec_drw_of_not_fits (h : ¬ (n = 0 ∨ s.i.toNat + n ≤ 0x1000)) :
    exec (.drw x y n) s = raise (.addressOutOfRange (max s.i.toNat 0x1000)) s :=
  (execDrw_eq x y n s).trans (if_neg h)

/-- A draw that reports `OK` found its sprite in memory, and has drawn it. -/
theorem exec_drw_of_ok (h : exec (.drw x y n) s = .next t) (hok : t.status = .ok) :
    (n = 0 ∨ s.i.toNat + n ≤ 0x1000) ∧ t = (s.drawn x y n).report .ok := by
  by_cases hf : n = 0 ∨ s.i.toNat + n ≤ 0x1000
  · rw [exec_drw_of_fits hf] at h
    exact ⟨hf, (Host.Outcome.next.inj h).symm⟩
  · rw [exec_drw_of_not_fits hf] at h
    cases h
    cases hok

theorem State.drawn_pixel_of_covers (hn : n ≤ 15) (h : SpriteCovers s x y n p) :
    (s.drawn x y n).fb.pixel p = !s.fb.pixel p :=
  (Framebuffer.flipAll_pixel (State.drawnPixels_nodup (by omega)) s.fb p).trans
    (if_pos (State.mem_drawnPixels.mpr h))

theorem State.drawn_pixel_of_not_covers (hn : n ≤ 15) (h : ¬ SpriteCovers s x y n p) :
    (s.drawn x y n).fb.pixel p = s.fb.pixel p :=
  (Framebuffer.flipAll_pixel (State.drawnPixels_nodup (by omega)) s.fb p).trans
    (if_neg (State.mem_drawnPixels.not.mpr h))

theorem State.drawn_getV_regF (s : State) (x y : Reg) (n : Nat) :
    (s.drawn x y n).getV regF = flagByte (s.fb.anyOn (s.drawnPixels x y n)) :=
  (State.setV_getV _ regF _ regF).trans (if_pos rfl)

/-- VF is 1 exactly on a collision (R101). -/
theorem State.drawn_getV_regF_eq_one :
    (s.drawn x y n).getV regF = 1#8 ↔ ∃ q, SpriteCovers s x y n q ∧ s.fb.pixel q = true := by
  rw [State.drawn_getV_regF, flagByte_eq_one, State.anyOn_drawnPixels]

/-- And 0 exactly where there is none. -/
theorem State.drawn_getV_regF_eq_zero :
    (s.drawn x y n).getV regF = 0#8 ↔ ¬ ∃ q, SpriteCovers s x y n q ∧ s.fb.pixel q = true := by
  rw [State.drawn_getV_regF, flagByte_eq_zero, State.anyOn_drawnPixels]

theorem State.drawn_keepsRegs (s : State) (x y : Reg) (n : Nat) : KeepsRegsBut [regF] s (s.drawn x y n) :=
  State.setV_keepsRegs (s.setFb _) regF _

theorem State.drawn_keeps (s : State) (x y : Reg) (n : Nat) :
    KeepsAllBut [.regs, .screen, .redraw] s (s.drawn x y n) :=
  (((s.setFb_keeps _).andThen (State.setV_keeps _ regF _)).andThen (State.setNr_keeps _ true)).mono (by simp)

/-! ### The same sprite at the same position -/

/-- A sprite covers what its bytes, its start position and the edge quirk say; nothing else of the state
has a part in it (R101 to R103). -/
theorem SpriteCovers.congr (h : KeepsAllBut [.regs, .screen, .redraw] s t)
    (hx : (t.getV x).toNat % 64 = (s.getV x).toNat % 64) (hy : (t.getV y).toNat % 32 = (s.getV y).toNat % 32) :
    SpriteCovers t x y n p ↔ SpriteCovers s x y n p := by
  have hi : t.i = s.i := h .index (by decide)
  have hm : ∀ a, t.readByte a = s.readByte a := h .memory (by decide)
  have hc : t.cfg = s.cfg := h .config (by decide)
  simp only [SpriteCovers, hi, hm, hc, hx, hy]

/-- A second draw of the sprite flips back what the first one flipped. -/
theorem State.drawn_drawn_pixel (hn : n ≤ 15) (hc : ∀ q, SpriteCovers t x y n q ↔ SpriteCovers s x y n q)
    (ht : t.fb = (s.drawn x y n).fb) : (t.drawn x y n).fb.pixel p = s.fb.pixel p := by
  by_cases h : SpriteCovers s x y n p
  · rw [State.drawn_pixel_of_covers hn ((hc p).mpr h), ht, State.drawn_pixel_of_covers hn h, Bool.not_not]
  · rw [State.drawn_pixel_of_not_covers hn ((hc p).not.mpr h), ht, State.drawn_pixel_of_not_covers hn h]

/-! ### The statements -/

/-- Settles O9: the draw of a sprite that lies in memory completes in `State.drawn`. -/
theorem drwFlipsSpritePixelsAndSetsCollision : Obligations.DrwFlipsSpritePixelsAndSetsCollision := by
  refine ⟨fun w h => decode_of_mem_row (i := .drw 0 0 0) h, fun s x y n hn hf => ?_, fun s x y n h1 hf => ?_⟩
  · exact ⟨_, exec_drw_of_fits hf, rfl, fun _ => State.drawn_pixel_of_covers hn,
      fun _ => State.drawn_pixel_of_not_covers hn, State.drawn_getV_regF_eq_one.mpr,
      State.drawn_getV_regF_eq_zero.mpr, rfl, s.drawn_keepsRegs x y n, (s.drawn_keeps x y n).report_ok⟩
  · exact ⟨_, exec_drw_of_not_fits (by omega), s.report_raisedFrom nofun⟩

/-- Settles O10: both draws cover the same pixels, so the second finds on exactly those that the first
turned on, and flips all of them back. -/
theorem drwTwiceRestoresFramebuffer : Obligations.DrwTwiceRestoresFramebuffer := by
  intro s t u x y n hn h hok hx hy hu
  obtain ⟨hf, rfl⟩ := exec_drw_of_ok h hok
  have hcov (q) : SpriteCovers ((s.drawn x y n).report .ok) x y n q ↔ SpriteCovers s x y n q :=
    SpriteCovers.congr (s.drawn_keeps x y n).report_ok hx hy
  rw [exec_drw_of_fits (s := (s.drawn x y n).report .ok) hf] at hu
  cases hu
  refine ⟨rfl, fun p => State.drawn_drawn_pixel hn hcov rfl,
    State.drawn_getV_regF_eq_one.trans (exists_congr fun q => ?_)⟩
  rw [hcov]
  refine and_congr_right fun hq => ?_
  rw [State.report_fb, State.drawn_pixel_of_covers hn hq, Bool.not_eq_true']

/-- Settles O8: the framebuffer becomes the blank one. -/
theorem clsClearsEveryPixelAndSetsRedraw : Obligations.ClsClearsEveryPixelAndSetsRedraw := by
  refine ⟨fun w h => decode_of_mem_row (i := .cls) h, fun s => ?_⟩
  exact ⟨_, rfl, rfl, Framebuffer.blank_pixel, rfl,
    ((s.setFb_keeps _).andThen (State.setNr_keeps _ true)).report_ok⟩

end Sys2Proof.Machine
end

section
/-! SUPPORT. Proofs of the statements of 41_flow.md. Each answer of a jump, a call and a return is a lemma
already (`execRet_of_entry`, `execCall_of_lt` and the two raises); here stand what such an answer keeps, and
the slot a call writes. -/

namespace Sys2Proof.Machine

variable {s : State}

/-! ### The stack and `PC` -/

/-- Other slots, another `SP` and another `PC`, completed: nothing else changed. -/
theorem State.withStack_setPc_keeps (s : State) (k : Vector Word 16) (n : Fin 17) (w : Word) :
    KeepsAllBut [.pc, .stack] s (({ s with stack := k, sp := n }.setPc w).report .ok) :=
  (((s.withStack_keeps k n).andThen (State.setPc_keeps _ w)).mono (by simp)).report_ok

theorem State.slot_set_same (n : Nat) (w : Word) (h : n < 16) {j : Fin 16} (hj : j.val = n) :
    ({ s with stack := s.stack.set n w h } : State).slot j = w := by
  subst hj
  simp [State.slot]

/-! ### The statements -/

/-- Settles O11: the slot of the newest entry is read and left as it is; only `SP` and `PC` move. -/
theorem retPopsNewestEntryIntoPc : Obligations.RetPopsNewestEntryIntoPc := by
  refine ⟨fun w h => decode_of_mem_row (i := .ret) h, fun s j hj => ?_, fun s h => ?_⟩
  · exact ⟨_, execRet_of_entry hj, rfl, rfl, rfl, fun _ => rfl, s.withStack_setPc_keeps s.stack _ _⟩
  · exact ⟨_, execRet_empty h, s.report_raisedFrom nofun⟩

/-- Settles O12: the zero-extended literal is the new `PC`. -/
theorem jpLoadsPc : Obligations.JpLoadsPc := by
  refine ⟨fun w h => decode_of_mem_row (i := .jp 0) h, fun nnn s => ?_⟩
  exact ⟨_, rfl, rfl, zextAddr_toNat nnn, (s.setPc_keeps _).report_ok⟩

/-- Settles O13: the advanced `PC` goes to the slot `SP` names, and to no other. -/
theorem callPushesAdvancedPcAndJumps : Obligations.CallPushesAdvancedPcAndJumps := by
  refine ⟨fun w h => decode_of_mem_row (i := .call 0) h, fun nnn s j hj => ?_, fun nnn s h => ?_⟩
  · have hroom : s.sp.val < 16 := hj ▸ j.isLt
    refine ⟨_, execCall_of_lt nnn hroom, rfl, zextAddr_toNat nnn, ?_, congrArg (· + 1) hj, fun k hk => ?_,
      s.withStack_setPc_keeps _ _ _⟩
    · exact State.slot_set_same s.sp.val s.pc hroom hj.symm
    · exact State.slot_set_of_ne s.sp.val s.pc hroom fun hks => hk (Fin.ext (hks.trans hj))
  · exact ⟨_, execCall_full nnn h, s.report_raisedFrom nofun⟩

/-- Settles O14: a byte and a 12-bit literal sum to less than 2^16, so the 16-bit sum is exact
(`execJpV0_pc`). -/
theorem jpV0AddsV0 : Obligations.JpV0AddsV0 := by
  refine ⟨fun w h => decode_of_mem_row (i := .jpV0 0) h, fun nnn s => ?_⟩
  exact ⟨_, rfl, rfl, execJpV0_pc rfl, (s.setPc_keeps _).report_ok⟩

end Sys2Proof.Machine
end

section
/-! SUPPORT. Proofs of the statements of 42_skip.md. All six skips end in `skipIf`, and `skipIf_skips` says
once what that leaves when the condition holds, and when it fails. A skip on a key is such a skip where Vx
names a key, and a raise where it names none. -/

namespace Sys2Proof.Machine

variable {s : State} {w : Word} {x : Reg}

/-! ### A skip, and a skip on a key -/

/-- R120: a skip completes, advances `PC` once more where `p` makes the condition true and leaves it where
`q` makes it false, and keeps every other part. -/
theorem skipIf_skips {c : Bool} {p q : Prop} (hp : p → c = true) (hq : q → c = false) (s : State) :
    ∃ t, skipIf c s = .next t ∧ t.status = .ok ∧ (p → t.pc.toNat = (s.pc.toNat + 2) % 65536) ∧
      (q → t.pc = s.pc) ∧ KeepsAllBut [.pc] s t := by
  cases c with
  | true => exact ⟨_, rfl, rfl, fun _ => s.advance_pc_toNat, fun h => (nomatch hq h), (s.setPc_keeps _).report_ok⟩
  | false => exact ⟨_, rfl, rfl, fun h => (nomatch hp h), fun _ => rfl, (KeepsAllBut.refl _ s).report_ok⟩

/-- Vx names a key: the skip is taken where the key has the flag `wanted` (R125, R126). -/
theorem skipIfKey_skips (wanted : Bool) {k : Fin 16} (h : (s.getV x).toNat = k.val) :
    ∃ t, skipIfKey wanted x s = .next t ∧ t.status = .ok ∧
      (s.key k = wanted → t.pc.toNat = (s.pc.toNat + 2) % 65536) ∧
      (s.key k = !wanted → t.pc = s.pc) ∧ KeepsAllBut [.pc] s t := by
  simp only [skipIfKey, keyNamed_of_eq h]
  exact skipIf_skips beq_iff_eq.mpr (fun hk => by simp [hk]) s

/-- Vx names no key (R127). -/
theorem skipIfKey_of_not_named (wanted : Bool) (h : 0xF < (s.getV x).toNat) :
    skipIfKey wanted x s = raise (.invalidKeyIndex (s.getV x)) s := by
  simp only [skipIfKey, keyNamed_of_gt h]

/-! ### A non-zero low nibble -/

theorem fieldN_eq_zero_iff : (fieldN w).toNat = 0 ↔ w &&& 0xF#16 = 0#16 := by
  rw [fieldN_toNat, BitVec.toNat_eq, BitVec.toNat_and]
  exact Iff.of_eq (congrArg (· = 0) (Nat.and_two_pow_sub_one_eq_mod w.toNat 4).symm)

/-- R123, R124: in the groups 0x5 and 0x9 a word with a non-zero low nibble is no instruction. -/
theorem decode_eq_none_of_nibble (hw : w &&& 0xF000#16 = 0x5000#16 ∨ w &&& 0xF000#16 = 0x9000#16)
    (hn : w &&& 0xF#16 ≠ 0#16) : decode w = none :=
  decode_eq_none_iff.mpr <| .inr <| .inl
    ⟨hw.imp fieldOp_of_mem_row fieldOp_of_mem_row, fieldN_eq_zero_iff.not.mpr hn⟩

/-! ### The statements -/

/-- Settles O15: the two skips, on Vx and the literal equal, and on them different. -/
theorem skipsComparingImmediate : Obligations.SkipsComparingImmediate := by
  refine ⟨fun w h => decode_of_mem_row (i := .seImm 0 0) h, fun w h => decode_of_mem_row (i := .sneImm 0 0) h,
    fun x nn s => ?_, fun x nn s => ?_⟩
  · exact skipIf_skips beq_iff_eq.mpr beq_eq_false_iff_ne.mpr s
  · exact skipIf_skips bne_iff_ne.mpr bne_eq_false_iff_eq.mpr s

/-- Settles O16: the same with a second register, in the words whose low nibble is 0. -/
theorem skipsComparingRegisters : Obligations.SkipsComparingRegisters := by
  refine ⟨fun w h => decode_of_mem_row (i := .seReg 0 0) h, fun w h => decode_of_mem_row (i := .sneReg 0 0) h,
    fun w => decode_eq_none_of_nibble, fun x y s => ?_, fun x y s => ?_⟩
  · exact skipIf_skips beq_iff_eq.mpr beq_eq_false_iff_ne.mpr s
  · exact skipIf_skips bne_iff_ne.mpr bne_eq_false_iff_eq.mpr s

/-- Settles O17: the key Vx names has the flag 1 (`EX9E`) or 0 (`EXA1`), and above 15 there is none. -/
theorem skipsOnKey : Obligations.SkipsOnKey := by
  refine ⟨fun w h => decode_of_mem_row (i := .skp 0) h, fun w h => decode_of_mem_row (i := .sknp 0) h,
    fun x s k hk => ?_, fun x s k hk => ?_, fun x s h => ?_, fun x s h => ?_⟩
  · exact skipIfKey_skips true hk
  · exact skipIfKey_skips false hk
  · exact ⟨_, skipIfKey_of_not_named true h, s.report_raisedFrom nofun⟩
  · exact ⟨_, skipIfKey_of_not_named false h, s.report_raisedFrom nofun⟩

end Sys2Proof.Machine
end

section
/-! SUPPORT. Proofs of the statements of 43_alu.md. A load or the immediate add leaves `State.setV`; the
instructions that set VF leave `State.setResultThenFlag`, whose result and flag are read back once here
(R131), so each of their statements turns on what its result and its flag are as numbers or bits. `CXNN`
leaves `State.setV` too, with the byte used up. -/

namespace Sys2Proof.Machine

variable {s : State} {x y : Reg}

/-! ### What a written register reads back as -/

theorem State.setV_getV_same (s : State) (x : Reg) (b : Byte) : (s.setV x b).getV x = b := by
  rw [State.setV_getV, if_pos rfl]

theorem State.setResultThenFlag_getV_regF (s : State) (x : Reg) (result flag : Byte) :
    (s.setResultThenFlag x result flag).getV regF = flag := by
  rw [State.setResultThenFlag_getV, if_pos rfl]

theorem State.setResultThenFlag_getV_of_ne (s : State) (hx : x ≠ regF) (result flag : Byte) :
    (s.setResultThenFlag x result flag).getV x = result := by
  rw [State.setResultThenFlag_getV, if_neg hx, if_pos rfl]

/-! ### Sums, differences and the shifted operand -/

theorem sumByte_toNat (a b : Byte) : (sumByte a b).toNat = (a.toNat + b.toNat) % 256 :=
  BitVec.toNat_ofNat _ 8

theorem diffByte_toNat (a b : Byte) : ((diffByte a b).toNat : Int) = (a.toNat - b.toNat : Int) % 256 := by
  rw [diffByte, BitVec.toNat_ofInt]
  exact Int.toNat_of_nonneg (Int.emod_nonneg _ (by decide))

theorem State.shiftOperand_fromY (h : s.cfg.shift = .fromY) : s.shiftOperand x y = s.getV y := by
  simp only [State.shiftOperand, h]

theorem State.shiftOperand_inPlace (h : s.cfg.shift = .inPlace) : s.shiftOperand x y = s.getV x := by
  simp only [State.shiftOperand, h]

theorem toNat_shiftRight_one (b : Byte) : (b >>> 1).toNat = b.toNat / 2 := by
  rw [BitVec.toNat_ushiftRight, Nat.shiftRight_one]

theorem toNat_shiftLeft_one (b : Byte) : (b <<< 1).toNat = b.toNat * 2 % 256 := by
  rw [BitVec.toNat_shiftLeft, Nat.shiftLeft_eq, Nat.pow_one]

/-! ### What the instructions of one kind complete in -/

/-- A write of `b` to Vx, completed. -/
theorem finish_setV (s : State) (x : Reg) {b : Byte} {P : Byte → Prop} (h : P b) :
    ∃ t, finish (s.setV x b) = .next t ∧ t.status = .ok ∧ P (t.getV x) ∧
      KeepsRegsBut [x] s t ∧ KeepsAllBut [.regs] s t :=
  ⟨_, rfl, rfl, (s.setV_getV_same x b).symm ▸ h, s.setV_keepsRegs x b, (s.setV_keeps x b).report_ok⟩

/-- A result whose bits are `op` of the operands' bits, then 0 in VF (R135 to R137). -/
theorem finish_logic (s : State) (x y : Reg) {result : Byte} {op : Bool → Bool → Bool}
    (h : ∀ b, result.getLsbD b = op ((s.getV x).getLsbD b) ((s.getV y).getLsbD b)) :
    ∃ t, finish (s.setResultThenFlag x result 0#8) = .next t ∧ t.status = .ok ∧ t.getV regF = 0#8 ∧
      (x ≠ regF → ∀ b < 8, (t.getV x).getLsbD b = op ((s.getV x).getLsbD b) ((s.getV y).getLsbD b)) ∧
      KeepsRegsBut [x, regF] s t ∧ KeepsAllBut [.regs] s t := by
  refine ⟨_, rfl, rfl, s.setResultThenFlag_getV_regF x _ _, fun hx b _ => ?_,
    s.setResultThenFlag_keepsRegs x _ _, (s.setResultThenFlag_keeps x _ _).report_ok⟩
  rw [State.report_getV, State.setResultThenFlag_getV_of_ne s hx, h]

/-- The difference `m - n` in Vx, then no-borrow in VF (R139, R141). -/
theorem finish_diff (s : State) (x : Reg) (m n : Byte) :
    ∃ t, finish (s.setResultThenFlag x (diffByte m n) (noBorrowFlag m n)) = .next t ∧ t.status = .ok ∧
      (x ≠ regF → ((t.getV x).toNat : Int) = (m.toNat - n.toNat : Int) % 256) ∧
      (n.toNat ≤ m.toNat → t.getV regF = 1#8) ∧ (m.toNat < n.toNat → t.getV regF = 0#8) ∧
      KeepsRegsBut [x, regF] s t ∧ KeepsAllBut [.regs] s t := by
  have hflag := (s.setResultThenFlag_getV_regF x (diffByte m n) _).trans (noBorrowFlag_eq m n)
  refine ⟨_, rfl, rfl, fun hx => ?_, fun h => hflag.trans (if_pos h),
    fun h => hflag.trans (if_neg (Nat.not_le.mpr h)),
    s.setResultThenFlag_keepsRegs x _ _, (s.setResultThenFlag_keeps x _ _).report_ok⟩
  rw [State.report_getV, State.setResultThenFlag_getV_of_ne s hx, diffByte_toNat]

/-- A shifted operand in Vx, `p` of the register the quirk selects, then the flag in VF (R140, R142, R144). -/
theorem finish_shift (s : State) (x y : Reg) {shift : Byte → Byte} {flag : Byte} {p : Nat → Nat} {f : Nat}
    (hp : ∀ b, (shift b).toNat = p b.toNat) (hf : flag.toNat = f) :
    ∃ t, finish (s.setResultThenFlag x (shift (s.shiftOperand x y)) flag) = .next t ∧ t.status = .ok ∧
      (x ≠ regF → s.cfg.shift = .fromY → (t.getV x).toNat = p (s.getV y).toNat) ∧
      (x ≠ regF → s.cfg.shift = .inPlace → (t.getV x).toNat = p (s.getV x).toNat) ∧
      (t.getV regF).toNat = f ∧ KeepsRegsBut [x, regF] s t ∧ KeepsAllBut [.regs] s t := by
  refine ⟨_, rfl, rfl, fun hx hq => ?_, fun hx hq => ?_, ?_,
    s.setResultThenFlag_keepsRegs x _ _, (s.setResultThenFlag_keeps x _ _).report_ok⟩
  · rw [State.report_getV, State.setResultThenFlag_getV_of_ne s hx, hp, State.shiftOperand_fromY hq]
  · rw [State.report_getV, State.setResultThenFlag_getV_of_ne s hx, hp, State.shiftOperand_inPlace hq]
  · rw [State.report_getV, State.setResultThenFlag_getV_regF, hf]

/-! ### `CXNN` with a named byte -/

/-- With the byte used up and Vx written, nothing else changed. -/
theorem State.withEnv_setV_keeps (s : State) (n : Nat) (x : Reg) (b : Byte) :
    KeepsAllBut [.regs, .random] s ((s.withEnv s.cfg none n).setV x b) :=
  ((State.withEnv_keeps rfl).andThen (State.setV_keeps _ x b)).mono (by simp)

theorem State.setV_and_getLsbD (s : State) (x : Reg) (r nn : Byte) (b : Nat) :
    ((s.setV x (r &&& nn)).getV x).getLsbD b = (r.getLsbD b && nn.getLsbD b) := by
  rw [State.setV_getV_same, BitVec.getLsbD_and]

/-! ### The statements -/

/-- Settles O18: each is one write to Vx, of the literal, of the sum modulo 256, of Vy. -/
theorem loadsAndImmediateAddWriteOnlyVx : Obligations.LoadsAndImmediateAddWriteOnlyVx := by
  refine ⟨fun w h => decode_of_mem_row (i := .ldImm 0 0) h, fun w h => decode_of_mem_row (i := .addImm 0 0) h,
    fun w h => decode_of_mem_row (i := .ldReg 0 0) h, fun x nn s => ?_, fun x nn s => ?_, fun x y s => ?_⟩
  · exact finish_setV s x (P := (· = nn)) rfl
  · exact finish_setV s x (P := fun b => b.toNat = ((s.getV x).toNat + nn.toNat) % 256) (sumByte_toNat _ nn)
  · exact finish_setV s x (P := (· = s.getV y)) rfl

/-- Settles O19: the three results bit by bit. -/
theorem logicWritesVxThenClearsVf : Obligations.LogicWritesVxThenClearsVf := by
  refine ⟨fun w h => decode_of_mem_row (i := .orReg 0 0) h, fun w h => decode_of_mem_row (i := .andReg 0 0) h,
    fun w h => decode_of_mem_row (i := .xorReg 0 0) h, fun x y s => ?_, fun x y s => ?_, fun x y s => ?_⟩
  · exact finish_logic s x y (op := or) fun _ => BitVec.getLsbD_or
  · exact finish_logic s x y (op := and) fun _ => BitVec.getLsbD_and
  · exact finish_logic s x y (op := xor) fun _ => BitVec.getLsbD_xor

/-- Settles O20: the sum and the carry of the old Vx and Vy; in VF the carry wins. -/
theorem addRegWritesSumThenCarry : Obligations.AddRegWritesSumThenCarry := by
  refine ⟨fun w h => decode_of_mem_row (i := .addReg 0 0) h, fun x y s => ?_⟩
  have hflag := (s.setResultThenFlag_getV_regF x (sumByte (s.getV x) (s.getV y)) _).trans
    (carryFlag_eq (s.getV x) (s.getV y))
  refine ⟨_, rfl, rfl, fun hx => ?_, fun h => hflag.trans (if_pos h),
    fun h => hflag.trans (if_neg (Nat.not_lt.mpr h)),
    s.setResultThenFlag_keepsRegs x _ _, (s.setResultThenFlag_keeps x _ _).report_ok⟩
  rw [State.report_getV, State.setResultThenFlag_getV_of_ne s hx, sumByte_toNat]

/-- Settles O21: the two differences, with the operands in either order. -/
theorem subtractionsWriteDifferenceThenNoBorrow : Obligations.SubtractionsWriteDifferenceThenNoBorrow := by
  refine ⟨fun w h => decode_of_mem_row (i := .sub 0 0) h, fun w h => decode_of_mem_row (i := .subn 0 0) h,
    fun x y s => ?_, fun x y s => ?_⟩
  · exact finish_diff s x (s.getV x) (s.getV y)
  · exact finish_diff s x (s.getV y) (s.getV x)

/-- Settles O22: a shift by one halves, or doubles modulo 256; the flag is the end bit of the old Vx. -/
theorem shiftsWriteResultThenOldBitOfVx : Obligations.ShiftsWriteResultThenOldBitOfVx := by
  refine ⟨fun w h => decode_of_mem_row (i := .shr 0 0) h, fun w h => decode_of_mem_row (i := .shl 0 0) h,
    fun x y s => ?_, fun x y s => ?_⟩
  · exact finish_shift s x y (shift := (· >>> 1)) (p := (· / 2)) toNat_shiftRight_one (lowBitFlag_toNat _)
  · exact finish_shift s x y (shift := (· <<< 1)) (p := (· * 2 % 256)) toNat_shiftLeft_one (highBitFlag_toNat _)

/-- Settles O23: the byte taken is the named one. -/
theorem rndMasksTheStepsByte : Obligations.RndMasksTheStepsByte := by
  refine ⟨fun w h => decode_of_mem_row (i := .rnd 0 0) h, fun x nn s r hr => ?_⟩
  exact ⟨_, exec_rnd_of_some x nn hr, rfl,
    fun b _ => State.setV_and_getLsbD (s.withEnv s.cfg none s.draws) x r nn b, rfl, rfl,
    State.setV_keepsRegs (s.withEnv s.cfg none s.draws) x _, (s.withEnv_setV_keeps _ x _).report_ok⟩

/-- Settles O58: the STEP command advances `PC`, short of any wrap-around, and executes the `CXNN`
with its byte (`stepCommand_of_rnd`). -/
theorem rndStepMasksTheCommandsByte : Obligations.RndStepMasksTheCommandsByte := by
  refine ⟨fun w h => decode_of_mem_row (i := .rnd 0 0) h, fun s x nn r hpc hd => ?_⟩
  have hkeeps : KeepsAllBut [.regs, .pc, .random] s
      ((s.advance.withEnv s.cfg none s.draws).setV x (r &&& nn)) :=
    ((s.setPc_keeps _).andThen (s.advance.withEnv_setV_keeps s.draws x _)).mono (by simp)
  exact ⟨_, stepCommand_of_rnd r hpc hd, rfl,
    fun b _ => State.setV_and_getLsbD (s.advance.withEnv s.cfg none s.draws) x r nn b,
    s.advance_pc_toNat.trans (Nat.mod_eq_of_lt (by omega)),
    State.setV_keepsRegs (s.advance.withEnv s.cfg none s.draws) x _, hkeeps.report_ok⟩

end Sys2Proof.Machine
end

section
/-! SUPPORT. Proofs of the statements of 44_index_memory.md. A block move (`FX55`, `FX65`) that completes
leaves one state, `State.blockStored` or `State.blockLoaded`; what its bytes and registers read as, and what
it keeps, are lemmas about that state. The digits of `FX33` and the new `I` of `ANNN`, `FX1E` and `FX29` are
read as numbers. -/

namespace Sys2Proof.Machine

variable {i : Instr} {s t : State} {x k : Reg}

/-! ### The new `I` of `ANNN`, `FX1E` and `FX29` -/

/-- `FX1E` adds modulo 2^16 (R151). -/
theorem add_zextByte_toNat (w : Word) (b : Byte) : (w + zextByte b).toNat = (w.toNat + b.toNat) % 65536 := by
  rw [BitVec.toNat_add, zextByte_toNat]

/-- Five times a byte fits in 16 bits, so `FX29` never wraps (R152). -/
theorem zextByte_mul_five_toNat (b : Byte) : (zextByte b * 5#16).toNat = b.toNat * 5 := by
  rw [BitVec.toNat_mul, zextByte_toNat, BitVec.toNat_ofNat]
  omega

/-- A write of `I`, completed. -/
theorem finish_setI (s : State) {w : Word} {n : Nat} (h : w.toNat = n) :
    ∃ t, finish (s.setI w) = .next t ∧ t.status = .ok ∧ t.i.toNat = n ∧ KeepsAllBut [.index] s t :=
  ⟨_, rfl, rfl, h, (s.setI_keeps w).report_ok⟩

/-! ### The bytes of `FX33` -/

/-- Everything an `FX33` can answer (R153; 20_memory.md R55, R57). -/
theorem execLdBVx_eq (x : Reg) (s : State) :
    execLdBVx x s =
      if s.i.toNat < 0x200 then raise (.writeProtected s.i.toNat) s
      else if s.i.toNat + 3 ≤ 0x1000 then
        finish (s.writeBytes s.i.toNat (decimalDigits (s.getV x)))
      else raise (.addressOutOfRange (max s.i.toNat 0x1000)) s := by
  rw [execLdBVx, storeAtI_eq _ s (by simp), decimalDigits_length]
  by_cases hlow : s.i.toNat < 0x200
  · simp only [if_pos hlow]
  · by_cases hin : s.i.toNat + 3 ≤ 0x1000
    · simp only [if_neg hlow, if_pos hin]
    · simp only [if_neg hlow, if_neg hin]

/-- Inside a block write, each byte reads as the list's. -/
theorem State.writeBytes_readByte_add (s : State) (a : Nat) {bs : List Byte} {j : Nat} (hj : j < bs.length) :
    (s.writeBytes a bs).readByte (a + j) = bs[j] := by
  rw [State.writeBytes_readByte, dif_pos ⟨Nat.le_add_right a j, by rwa [Nat.add_sub_cancel_left]⟩]
  simp only [Nat.add_sub_cancel_left]

/-- A number that fits in a byte is the byte's value. -/
theorem toNat_ofNat_byte {n : Nat} (h : n < 256) : (BitVec.ofNat 8 n).toNat = n :=
  (BitVec.toNat_ofNat n 8).trans (Nat.mod_eq_of_lt h)

/-- The three bytes at `a` read as the hundreds, the tens and the ones of `b`. -/
theorem State.writeBytes_decimalDigits (s : State) (a : Nat) (b : Byte) :
    ((s.writeBytes a (decimalDigits b)).readByte a).toNat = b.toNat / 100 ∧
      ((s.writeBytes a (decimalDigits b)).readByte (a + 1)).toNat = b.toNat / 10 % 10 ∧
      ((s.writeBytes a (decimalDigits b)).readByte (a + 2)).toNat = b.toNat % 10 := by
  have hbyte {j : Nat} (hj : j < (decimalDigits b).length) := s.writeBytes_readByte_add a hj
  refine ⟨?_, ?_, ?_⟩
  · exact (congrArg BitVec.toNat (hbyte (j := 0) (by simp))).trans (toNat_ofNat_byte (by omega))
  · exact (congrArg BitVec.toNat (hbyte (j := 1) (by simp))).trans (toNat_ofNat_byte (by omega))
  · exact (congrArg BitVec.toNat (hbyte (j := 2) (by simp))).trans (toNat_ofNat_byte (by omega))

/-! ### The state a completed `FX55` leaves -/

/-- V0 to Vx stored at `I` onward, and `I` moved as the quirk says (R154, R156). -/
def State.blockStored (s : State) (x : Reg) : State :=
  (s.writeBytes s.i.toNat (s.regBlock x)).setI (s.indexAfterMove x)

theorem exec_ldMemVx_of_fits (hlow : 0x200 ≤ s.i.toNat) (hin : s.i.toNat + x.val < 0x1000) :
    exec (.ldMemVx x) s = finish (s.blockStored x) :=
  (execLdMemVx_eq x s).trans ((if_neg (Nat.not_lt.mpr hlow)).trans (if_pos hin))

theorem exec_ldMemVx_of_low (h : s.i.toNat < 0x200) :
    exec (.ldMemVx x) s = raise (.writeProtected s.i.toNat) s :=
  (execLdMemVx_eq x s).trans (if_pos h)

/-- A block that reaches 0x1000 begins above 0x200: it holds at most 16 bytes. -/
theorem exec_ldMemVx_of_past (h : 0x1000 ≤ s.i.toNat + x.val) :
    exec (.ldMemVx x) s = raise (.addressOutOfRange (max s.i.toNat 0x1000)) s :=
  (execLdMemVx_eq x s).trans ((if_neg (by omega)).trans (if_neg (Nat.not_le.mpr (Nat.lt_succ_of_le h))))

theorem State.blockStored_readByte (s : State) (hk : k ≤ x) :
    (s.blockStored x).readByte (s.i.toNat + k.val) = s.getV k :=
  s.writeBytes_regBlock_readByte s.i.toNat hk

theorem State.blockStored_keepsBytes (s : State) (x : Reg) :
    KeepsBytesBut s.i.toNat (x.val + 1) s (s.blockStored x) :=
  State.regBlock_length (s := s) x ▸ s.writeBytes_keepsBytes s.i.toNat (s.regBlock x)

theorem State.blockStored_keeps (s : State) (x : Reg) : KeepsAllBut [.memory, .index] s (s.blockStored x) :=
  (s.writeBytes_keeps _ _).andThen (State.setI_keeps _ _)

/-! ### The state a completed `FX65` leaves -/

/-- V0 to Vx loaded from `I` onward, and `I` moved as the quirk says (R155, R156). -/
def State.blockLoaded (s : State) (x : Reg) : State :=
  (s.setRegs (s.loadedRegs x s.i.toNat)).setI (s.indexAfterMove x)

theorem exec_ldVxMem_of_fits (h : s.i.toNat + x.val < 0x1000) :
    exec (.ldVxMem x) s = finish (s.blockLoaded x) :=
  (execLdVxMem_eq x s).trans (if_pos h)

theorem exec_ldVxMem_of_past (h : 0x1000 ≤ s.i.toNat + x.val) :
    exec (.ldVxMem x) s = raise (.addressOutOfRange (max s.i.toNat 0x1000)) s :=
  (execLdVxMem_eq x s).trans (if_neg (Nat.not_le.mpr (Nat.lt_succ_of_le h)))

theorem State.blockLoaded_getV_of_le (s : State) (hk : k ≤ x) :
    (s.blockLoaded x).getV k = s.readByte (s.i.toNat + k.val) :=
  (s.setRegs_loadedRegs_getV x s.i.toNat k).trans (if_pos hk)

theorem State.blockLoaded_getV_of_lt (s : State) (hk : x < k) : (s.blockLoaded x).getV k = s.getV k :=
  (s.setRegs_loadedRegs_getV x s.i.toNat k).trans (if_neg (Fin.not_le.mpr hk))

theorem State.blockLoaded_keeps (s : State) (x : Reg) : KeepsAllBut [.regs, .index] s (s.blockLoaded x) :=
  (s.setRegs_keeps _).andThen (State.setI_keeps _ _)

/-! ### `I` after a block move -/

/-- A block move completes with `I` as the quirk says, or raises from the state it was handed. -/
theorem exec_blockMove_cases (hi : i = .ldMemVx x ∨ i = .ldVxMem x) (h : exec i s = .next t) :
    (∃ u : State, u.i = s.indexAfterMove x ∧ t = u.report .ok) ∨ ∃ e, e ≠ .ok ∧ t = s.report e := by
  obtain rfl | rfl := hi
  · replace h := (execLdMemVx_eq x s).symm.trans h
    split at h
    · cases h
      exact .inr ⟨.writeProtected _, nofun, rfl⟩
    · split at h
      · cases h
        exact .inl ⟨s.blockStored x, rfl, rfl⟩
      · cases h
        exact .inr ⟨.addressOutOfRange _, nofun, rfl⟩
  · replace h := (execLdVxMem_eq x s).symm.trans h
    split at h
    · cases h
      exact .inl ⟨s.blockLoaded x, rfl, rfl⟩
    · cases h
      exact .inr ⟨.addressOutOfRange _, nofun, rfl⟩

/-! ### The statements -/

/-- Settles O28: the block that fits is stored whole, and a block that begins too low or ends too high not
at all. -/
theorem ldMemStoresRegisterBlock : Obligations.LdMemStoresRegisterBlock := by
  refine ⟨fun w h => decode_of_mem_row (i := .ldMemVx 0) h, fun x s hlow hin => ?_, fun x s h => ?_,
    fun x s h => ?_⟩
  · exact ⟨_, exec_ldMemVx_of_fits hlow hin, rfl, fun _ => s.blockStored_readByte, s.blockStored_keepsBytes x,
      State.indexAfterMove_unchanged x, State.indexAfterMove_increment x, (s.blockStored_keeps x).report_ok⟩
  · exact ⟨_, exec_ldMemVx_of_past h, s.report_raisedFrom nofun⟩
  · exact ⟨_, exec_ldMemVx_of_low h, s.report_raisedFrom nofun⟩

/-- Settles O30: a completed move reports `OK`, and a raise never does, so the status tells the two apart. -/
theorem incrementQuirkMovesIndexPastTheBlock : Obligations.IncrementQuirkMovesIndexPastTheBlock := by
  intro x i s t hq hi h
  obtain ⟨u, hu, rfl⟩ | ⟨e, he, rfl⟩ := exec_blockMove_cases hi h
  · exact ⟨fun _ => (congrArg BitVec.toNat hu).trans (State.indexAfterMove_increment x hq),
      fun hne => absurd rfl hne⟩
  · exact ⟨fun hok => absurd hok he, fun _ => rfl⟩

/-- Settles O31: `I` and the stored bytes are still there when `FX65` reads them. -/
theorem storeThenLoadRestoresRegisters : Obligations.StoreThenLoadRestoresRegisters := by
  intro s t u x hq hlow hin h hu
  rw [exec_ldMemVx_of_fits hlow (Nat.lt_succ_of_le hin)] at h
  cases h
  have hi : u.i = s.i := (hu .index (by decide)).trans (State.indexAfterMove_unchanged x hq)
  have hc : u.cfg = s.cfg := (hu .config (by decide)).trans (s.blockStored_keeps x .config (by decide))
  have hm : ∀ k, k ≤ x → u.readByte (u.i.toNat + k.val) = s.getV k := fun k hk => by
    rw [hi]
    exact (hu .memory (by decide) _).trans (s.blockStored_readByte hk)
  refine ⟨_, exec_ldVxMem_of_fits (hi ▸ Nat.lt_succ_of_le hin), rfl, ?_, fun k hk => ?_, fun k hk => ?_⟩
  · exact (State.indexAfterMove_unchanged x (hc ▸ hq)).trans hi
  · exact (u.blockLoaded_getV_of_le hk).trans (hm k hk)
  · exact u.blockLoaded_getV_of_lt hk

/-- Settles O25: each is one write to `I`; its value as a number. -/
theorem indexInstructionsWriteOnlyI : Obligations.IndexInstructionsWriteOnlyI := by
  refine ⟨fun w h => decode_of_mem_row (i := .ldI 0) h, fun w h => decode_of_mem_row (i := .addIVx 0) h,
    fun w h => decode_of_mem_row (i := .ldFVx 0) h, fun nnn s => ?_, fun x s => ?_, fun x s => ?_⟩
  · exact finish_setI s (zextAddr_toNat nnn)
  · exact finish_setI s (add_zextByte_toNat s.i (s.getV x))
  · exact finish_setI s (zextByte_mul_five_toNat (s.getV x))

/-- Settles O27: the three ends of `execLdBVx_eq`. -/
theorem ldBStoresDecimalDigits : Obligations.LdBStoresDecimalDigits := by
  refine ⟨fun w h => decode_of_mem_row (i := .ldBVx 0) h, fun x s hlow hin => ?_, fun x s h => ?_,
    fun x s h => ?_⟩
  · obtain ⟨hhundreds, htens, hones⟩ := s.writeBytes_decimalDigits s.i.toNat (s.getV x)
    exact ⟨_, (execLdBVx_eq x s).trans ((if_neg (Nat.not_lt.mpr hlow)).trans (if_pos hin)), rfl, hhundreds,
      htens, hones, s.writeBytes_keepsBytes s.i.toNat (decimalDigits (s.getV x)),
      (s.writeBytes_keeps _ _).report_ok⟩
  · exact ⟨_, (execLdBVx_eq x s).trans ((if_neg (by omega)).trans (if_neg (by omega))),
      s.report_raisedFrom nofun⟩
  · exact ⟨_, (execLdBVx_eq x s).trans (if_pos h), s.report_raisedFrom nofun⟩

/-- Settles O29: a block that fits is loaded whole, wherever it begins, and one that does not, not at all. -/
theorem ldVxLoadsRegisterBlock : Obligations.LdVxLoadsRegisterBlock := by
  refine ⟨fun w h => decode_of_mem_row (i := .ldVxMem 0) h, fun x s h => ?_, fun x s h => ?_⟩
  · exact ⟨_, exec_ldVxMem_of_fits h, rfl, fun _ => s.blockLoaded_getV_of_le,
      fun _ => s.blockLoaded_getV_of_lt, State.indexAfterMove_unchanged x, State.indexAfterMove_increment x,
      (s.blockLoaded_keeps x).report_ok⟩
  · exact ⟨_, exec_ldVxMem_of_past h, s.report_raisedFrom nofun⟩

end Sys2Proof.Machine
end

section
/-! SUPPORT. Proofs of the statements of 45_timer_input.md. The timer instructions are one write each. What
`FX0A` answers is said once per outcome of the key scan: the lowest set key, and no key. -/

namespace Sys2Proof.Machine

variable {s : State} {k : Fin 16}

/-! ### The two outcomes of `FX0A` -/

theorem keyNumber_toNat (k : Fin 16) : (keyNumber k).toNat = k.val :=
  toNat_ofNat_byte (by omega)

/-- A key is set, and none below it: its number goes to Vx (R171). -/
theorem exec_ldVxK_of_first (x : Reg) (h : s.key k = true) (hj : ∀ j, j < k → s.key j = false) :
    exec (.ldVxK x) s = finish (s.setV x (keyNumber k)) := by
  change execLdVxK x s = _
  rw [execLdVxK, State.lowestKey_of_first h hj]

/-- No key is set: `PC` goes back to the instruction (R171). -/
theorem exec_ldVxK_of_none (x : Reg) (h : ∀ k, s.key k = false) :
    exec (.ldVxK x) s = finish (s.setPc (s.pc - 2#16)) := by
  change execLdVxK x s = _
  rw [execLdVxK, State.lowestKey_of_none h]

/-- `PC` goes back modulo 2^16. -/
theorem sub_two_toNat (w : Word) : ((w - 2#16).toNat : Int) = (w.toNat - 2 : Int) % 65536 := by
  rw [BitVec.toNat_sub, BitVec.toNat_ofNat]
  omega

/-! ### The statements -/

/-- Settles O33: each is one write, to Vx, to `DT`, to `ST`. -/
theorem timerInstructionsMoveBytes : Obligations.TimerInstructionsMoveBytes := by
  refine ⟨fun w h => decode_of_mem_row (i := .ldVxDt 0) h, fun w h => decode_of_mem_row (i := .ldDtVx 0) h,
    fun w h => decode_of_mem_row (i := .ldStVx 0) h, fun x s => ?_, fun x s => ?_, fun x s => ?_⟩
  · exact finish_setV s x (P := (· = s.dt)) rfl
  · exact ⟨_, rfl, rfl, rfl, (s.setDt_keeps (s.getV x)).report_ok⟩
  · exact ⟨_, rfl, rfl, rfl, (s.setSt_keeps (s.getV x)).report_ok⟩

/-- Settles O34: the lowest set key is written to Vx; with none set, `PC` alone moves. -/
theorem ldKTakesLowestKeyOrWaits : Obligations.LdKTakesLowestKeyOrWaits := by
  refine ⟨fun w h => decode_of_mem_row (i := .ldVxK 0) h, fun x s k h hj => ?_, fun x s h => ?_⟩
  · rw [exec_ldVxK_of_first x h hj]
    exact finish_setV s x (P := fun b => b.toNat = k.val) (keyNumber_toNat k)
  · exact ⟨_, exec_ldVxK_of_none x h, rfl, sub_two_toNat s.pc, (s.setPc_keeps _).report_ok⟩

end Sys2Proof.Machine
end

section
/-! SUPPORT. Proofs of the statements of 60_exceptions.md. Every command ends by reporting one status in a
state that has the fault mark the command began with (R180, R187); what the mark then is, is said once, of
`State.report`. Which statuses an instruction reports is read from the equation that says what it can
answer, against its row of R181 (`Reports`). -/

namespace Sys2Proof.Machine

variable {s t u : State} {e : Status}

/-! ### The status reported and the fault mark -/

/-- R187: a mark already set stays; with none set, `OK` leaves none and any other status sets it. -/
theorem State.report_marksFirst (h : u.faultMark = s.faultMark) (e : Status) :
    (∀ m, s.faultMark = some m → (u.report e).faultMark = some m) ∧
    (s.faultMark = none → e = .ok → (u.report e).faultMark = none) ∧
    (s.faultMark = none → e ≠ .ok → (u.report e).faultMark = some e) := by
  rw [← h, State.report_faultMark]
  exact ⟨fun m hm => by simp [hm], fun hm he => by simp [hm, he], fun hm he => by simp [hm, he]⟩

/-- A status reported twice is reported once. -/
theorem State.report_report (s : State) (e : Status) : (s.report e).report e = s.report e := by
  by_cases h : s.faultMark = none ∧ e ≠ .ok
  · simp [State.report, h]
  · simp only [State.report, if_neg h]

/-- A meaning reports one status, with the fault mark it was handed (60_exceptions.md R180, R183). -/
theorem Ends.reports {a : Result} (h : Ends s a) :
    ∃ (u : State) (e : Status), a = .next (u.report e) ∧ u.faultMark = s.faultMark := by
  cases h with
  | finished u _ hm => exact ⟨u, .ok, finish_eq u, hm⟩
  | raised e => exact ⟨s, e, raise_eq e s, rfl⟩

/-- A meaning that reports a status other than `OK` raised it from the state it was handed (R184). -/
theorem Ends.raisedFrom (h : Ends s (.next t)) (ht : t.status ≠ .ok) : RaisedFrom t.status s t := by
  generalize ha : (Host.Outcome.next t : Result) = a at h
  cases h with
  | finished u => cases ha; exact absurd rfl ht
  | raised e he => cases ha; exact s.report_raisedFrom he

/-! ### The commands -/

theorem State.setKeys_keeps (s : State) (k : Vector Bool 16) : KeepsAllBut [.keys] s (s.setKeys k) := by
  intro q hq
  cases q <;> simp_all [Keeps]

theorem loadCommand_of_fits {bytes : List Byte} (h : bytes.length ≤ programMax) :
    loadCommand bytes s = finish (s.writeBytes programBase bytes) := if_neg (Nat.not_lt.mpr h)

theorem loadCommand_of_too_large {bytes : List Byte} (h : programMax < bytes.length) :
    loadCommand bytes s = raise (.programTooLarge bytes.length) s := if_pos h

/-- Every command reports one status, in a state with the fault mark it began with (R180, R187). -/
theorem command_reports (c : Command) (s : State) :
    ∃ (u : State) (e : Status), command c s = .next (u.report e) ∧ u.faultMark = s.faultMark := by
  cases c with
  | reset | tick | setKeys | clearRedraw => exact ⟨_, .ok, rfl, rfl⟩
  | load bytes =>
    by_cases h : bytes.length ≤ programMax
    · exact ⟨_, .ok, loadCommand_of_fits h, s.writeBytes_faultMark _ _⟩
    · exact ⟨s, _, loadCommand_of_too_large (Nat.lt_of_not_le h), rfl⟩
  | step b =>
    obtain ⟨u, e, h, hm⟩ := (step_ends { s with rndIn := some b }).elim Ends.reports Ends.reports
    exact ⟨{ u with rndIn := none }, e, congrArg endStep h, hm⟩

/-- Only RESET and STEP write `PC` (60_exceptions.md R186, R190). -/
theorem command_pc {c : Command} (hreset : c ≠ .reset) (hstep : ∀ b, c ≠ .step b)
    (h : command c s = .next t) : t.pc = s.pc := by
  cases c with
  | reset => exact absurd rfl hreset
  | step b => exact absurd rfl (hstep b)
  | tick | setKeys | clearRedraw => cases h; rfl
  | load bytes =>
    by_cases hl : bytes.length ≤ programMax
    · cases (loadCommand_of_fits hl).symm.trans h
      exact s.writeBytes_keeps programBase bytes .pc (by decide)
    · cases (loadCommand_of_too_large (Nat.lt_of_not_le hl)).symm.trans h
      rfl

/-- TICK (R192). -/
theorem command_tick (s : State) :
    ∃ t, command .tick s = .next t ∧ t.status = .ok ∧ t.dt.toNat = s.dt.toNat - 1 ∧
      t.st.toNat = s.st.toNat - 1 ∧ KeepsAllBut [.delay, .sound] s t :=
  ⟨_, rfl, rfl, countDown_toNat s.dt, countDown_toNat s.st,
    ((s.setDt_keeps _).andThen (State.setSt_keeps _ _)).report_ok⟩

/-- A schedule goes on after a command that answers a next state (R191). -/
theorem runCommands_cons {c : Command} (h : command c s = .next t) (cs : List Command) :
    runCommands (c :: cs) s = runCommands cs t := by
  simp only [runCommands, h]

/-- `n` TICKs, by induction on `n`: each takes one more from both timers, as far as 0 (R192). -/
theorem runCommands_ticks (n : Nat) (s : State) :
    ∃ t, runCommands (List.replicate n .tick) s = .next t ∧ t.dt.toNat = s.dt.toNat - n ∧
      t.st.toNat = s.st.toNat - n ∧ KeepsAllBut [.delay, .sound] s t := by
  induction n generalizing s with
  | zero => exact ⟨s, rfl, rfl, rfl, .refl _ s⟩
  | succ n ih =>
    obtain ⟨t, htick, -, hdt, hst, hk⟩ := command_tick s
    obtain ⟨u, hrun, hdt', hst', hk'⟩ := ih t
    refine ⟨u, ?_, by omega, by omega, hk.trans hk'⟩
    rw [List.replicate_succ, runCommands_cons htick, hrun]

/-! ### A fetch past memory, again and again -/

/-- A run goes on after a step that answers a next state. -/
theorem run_succ (h : step s = .next t) (n : Nat) : Sys2Proof.core.run (n + 1) s = Sys2Proof.core.run n t := by
  have hs : Sys2Proof.core.step s = .next t := h
  simp only [Host.Core.run, hs]

/-- R186, by induction on the number of steps: the first leaves `PC`, so the others report the same status
again, which changes nothing. -/
theorem run_of_fetch_fault (n : Nat) (h : 0x1000 ≤ s.pc.toNat + 1) :
    Sys2Proof.core.run (n + 1) s = .next (s.report (.addressOutOfRange (max s.pc.toNat 0x1000))) := by
  induction n generalizing s with
  | zero => exact run_succ (step_of_fetch_fault h) 0
  | succ n ih =>
    rw [run_succ (step_of_fetch_fault h), ih (s := s.report _) h, State.report_pc, State.report_report]

/-! ### The table of R181 -/

/-- The answer reports a status other than `OK` exactly where the table `R` says. -/
def Reports (R : Status → Prop) (a : Result) : Prop :=
  ∃ t, a = .next t ∧ ∀ e, e ≠ .ok → (t.status = e ↔ R e)

section
variable {R : Status → Prop} {c low past fits : Prop} {e' : Status}

/-- An answer that completes, where the table has no status. -/
theorem reports_finish (h : ∀ e, ¬ R e) : Reports R (finish u) :=
  ⟨_, rfl, fun e he => iff_of_false he.symm (h e)⟩

/-- An answer that raises the one status of the table. -/
theorem reports_raise (h : ∀ e', R e' ↔ e' = e) : Reports R (raise e s) :=
  ⟨_, rfl, fun e' _ => eq_comm.trans (h e').symm⟩

/-- A row with one condition, in an answer that checks the opposite. -/
theorem reports_check [Decidable fits] (h : c ↔ ¬ fits) :
    Reports (fun r => c ∧ r = e) (if fits then finish u else raise e s) := by
  split
  · next hf => exact reports_finish fun _ hr => h.mp hr.1 hf
  · next hf => exact reports_raise fun _ => and_iff_right (h.mpr hf)

/-- The row of a store, past memory or in the protected bytes below 0x200 but never both. -/
theorem reports_store [Decidable low] [Decidable fits] (hlow : low → fits) (h : past ↔ ¬ fits) :
    Reports (fun r => (past ∧ r = e) ∨ (low ∧ r = e'))
      (if low then raise e' s else if fits then finish u else raise e s) := by
  by_cases hl : low
  · rw [if_pos hl]
    exact reports_raise fun _ => by simp [hl, h, hlow hl]
  · rw [if_neg hl]
    simpa only [hl, false_and, or_false] using reports_check h

end

theorem execRet_reports (s : State) : Reports (RaisesIn .ret s) (execRet s) := by
  obtain h | ⟨j, h⟩ := s.sp_cases
  · rw [execRet_empty h]
    exact reports_raise fun _ => and_iff_right h
  · rw [execRet_of_entry h]
    exact reports_finish fun _ hr => absurd h (by simp [hr.1])

theorem execCall_reports (nnn : BitVec 12) (s : State) : Reports (RaisesIn (.call nnn) s) (execCall nnn s) := by
  by_cases h : s.sp = 16
  · rw [execCall_full nnn h]
    exact reports_raise fun _ => and_iff_right h
  · rw [execCall_of_lt nnn (by omega)]
    exact reports_finish fun _ hr => h hr.1

/-- R127, for `EX9E` and `EXA1` alike. -/
theorem skipIfKey_reports (wanted : Bool) (x : Reg) (s : State) :
    Reports (fun e => 0xF < (s.getV x).toNat ∧ e = .invalidKeyIndex (s.getV x)) (skipIfKey wanted x s) := by
  by_cases h : 0xF < (s.getV x).toNat
  · rw [skipIfKey_of_not_named wanted h]
    exact reports_raise fun _ => and_iff_right h
  · have hk : keyNamed (s.getV x) = some ⟨(s.getV x).toNat, by omega⟩ := keyNamed_of_eq rfl
    rw [skipIfKey, hk]
    exact reports_finish fun _ hr => h hr.1

theorem execLdVxK_reports (x : Reg) (s : State) : Reports (RaisesIn (.ldVxK x) s) (execLdVxK x s) := by
  unfold execLdVxK
  cases s.lowestKey with
  | none => exact reports_finish fun _ => id
  | some k => exact reports_finish fun _ => id

/-- R181, row by row. -/
theorem exec_reports (i : Instr) (s : State) : Reports (RaisesIn i s) (exec i s) := by
  cases i with
  | cls | jp | seImm | sneImm | seReg | ldImm | addImm | ldReg | orReg | andReg | xorReg | addReg | sub | shr
  | subn | shl | sneReg | ldI | jpV0 | rnd | ldVxDt | ldDtVx | ldStVx | addIVx | ldFVx =>
    exact reports_finish fun _ => id
  | ret => exact execRet_reports s
  | call nnn => exact execCall_reports nnn s
  | skp x => exact skipIfKey_reports true x s
  | sknp x => exact skipIfKey_reports false x s
  | ldVxK x => exact execLdVxK_reports x s
  | drw x y n =>
    change Reports (fun e => 1 ≤ n ∧ 0x1000 ≤ s.i.toNat + n - 1 ∧ e = _) (execDrw x y n s)
    simp only [execDrw_eq, ← and_assoc]
    exact reports_check (by omega)
  | ldBVx x =>
    change Reports _ (execLdBVx x s)
    rw [execLdBVx_eq]
    exact reports_store (by omega) (by omega)
  | ldMemVx x =>
    change Reports _ (execLdMemVx x s)
    rw [execLdMemVx_eq, blockLength]
    exact reports_store (by omega) (by omega)
  | ldVxMem x =>
    change Reports _ (execLdVxMem x s)
    rw [execLdVxMem_eq, blockLength]
    exact reports_check (by omega)

/-! ### The statements -/

/-- Settles O36: one TICK, then any number of them. -/
theorem ticksCountBothTimersDown : Obligations.TicksCountBothTimersDown :=
  ⟨command_tick, runCommands_ticks⟩

/-- Settles O41: every command ends in a report, from a state with the mark it began with. -/
theorem everyCommandGoesOnAndMarksFirstFault : Obligations.EveryCommandGoesOnAndMarksFirstFault := by
  intro c s
  obtain ⟨u, e, h, hm⟩ := command_reports c s
  exact ⟨u.report e, h, State.report_marksFirst hm e⟩

/-- Settles O42: the fetch raises before the advance; the illegal word and the instruction after it. -/
theorem raisingStepChangesOnlyPc : Obligations.RaisingStepChangesOnlyPc := by
  intro s t h ht
  obtain ⟨e, hpc, rfl⟩ | ⟨e, hpc, -, rfl⟩ | ⟨i, hpc, -, hi⟩ := step_cases h
  · exact ⟨fun _ => s.report_raisedFrom ht, fun hin => absurd hpc (Nat.not_le.mpr hin)⟩
  · exact ⟨fun hout => absurd hout (Nat.not_le.mpr hpc), fun _ => s.advance.report_raisedFrom ht⟩
  · have he : Ends s.advance (.next t) := hi ▸ exec_ends i s.advance
    exact ⟨fun hout => absurd hout (Nat.not_le.mpr hpc), fun _ => he.raisedFrom ht⟩

/-- Settles O43: the table's rows, the fetch and the illegal word. -/
theorem statusesAreTheTabledOnes : Obligations.StatusesAreTheTabledOnes := by
  refine ⟨fun i s t e h he => ?_, fun s t hpc h => ?_, fun s t hpc hd h => ?_⟩
  · obtain ⟨u, hu, htable⟩ := exec_reports i s
    cases h.symm.trans hu
    exact htable e he
  · cases (step_of_fetch_fault hpc).symm.trans h
    rfl
  · cases (step_of_illegal hpc hd).symm.trans h
    rfl

/-- Settles O44: the status of the first step, repeated, and the commands that leave `PC`. -/
theorem fetchFaultRepeats : Obligations.FetchFaultRepeats :=
  ⟨fun s n h => ⟨_, run_of_fetch_fault n h, s.report_raisedFrom nofun⟩, fun _ _ _ => command_pc⟩

/-- Settles O38: each is one write, of all the keys, of `NR`. -/
theorem setKeysAndClearRedrawWriteOnlyTheirs : Obligations.SetKeysAndClearRedrawWriteOnlyTheirs :=
  ⟨fun k s => ⟨_, rfl, rfl, s.setKeys_key k, (s.setKeys_keeps k).report_ok⟩,
    fun s => ⟨_, rfl, rfl, rfl, (s.setNr_keeps false).report_ok⟩⟩

end Sys2Proof.Machine
end

section
/-! SUPPORT. Proofs of the statements of 70_reset_and_hazards.md. A parked state and one that waits in `FX0A`
step alike: the instruction puts `PC` back where the fetch found it, so the step only reports `OK`. -/

namespace Sys2Proof.Machine

variable {s : State} {x : Reg}

/-! ### Steps that leave `PC` where it was -/

/-- Writing the old `PC` undoes the advance. -/
theorem State.advance_setPc_pc (s : State) : s.advance.setPc s.pc = s := rfl

/-- An address of memory is the zero extension of its low 12 bits. -/
theorem zextAddr_setWidth_of_lt {w : Word} (h : w.toNat < 0x1000) : zextAddr (w.setWidth 12) = w :=
  BitVec.setWidth_setWidth_eq_self h

/-- The jump to `nnn` is `nnn` under the operation nibble 1 (30_encoding.md R78). -/
theorem encode_jp (nnn : BitVec 12) : encode (.jp nnn) = 0x1000#16 ||| zextAddr nnn := rfl

/-- The word that parks a state at `PC` is the jump to `PC` (R221). -/
theorem decode_jump_to_self {w : Word} (h : w.toNat < 0x1000) :
    decode (0x1000#16 ||| w) = some (.jp (w.setWidth 12)) := by
  rw [← decodeOfEncodeIsIdentity (.jp (w.setWidth 12)) rfl, encode_jp, zextAddr_setWidth_of_lt h]

theorem step_of_parked (h : s.parked) : step s = finish s := by
  obtain ⟨hpc, hw⟩ := h
  have hlt : s.pc.toNat < 0x1000 := by omega
  calc step s
    _ = exec (.jp (s.pc.setWidth 12)) s.advance :=
      step_of_decode (by omega) (hw ▸ decode_jump_to_self hlt)
    _ = finish (s.advance.setPc (zextAddr (s.pc.setWidth 12))) := rfl
    _ = finish s := by rw [zextAddr_setWidth_of_lt hlt, State.advance_setPc_pc]

theorem step_of_waiting (hpc : s.pc.toNat + 1 < 0x1000) (hd : decode (s.wordAt s.pc.toNat) = some (.ldVxK x))
    (hk : ∀ k, s.key k = false) : step s = finish s :=
  calc step s
    _ = exec (.ldVxK x) s.advance := step_of_decode hpc hd
    _ = finish (s.advance.setPc (s.advance.pc - 2#16)) := exec_ldVxK_of_none x hk
    _ = finish s := by rw [State.advance_pc, BitVec.add_sub_cancel, State.advance_setPc_pc]

/-! ### A store below the program -/

theorem exec_ldBVx_of_low (h : s.i.toNat < 0x200) :
    exec (.ldBVx x) s = raise (.writeProtected s.i.toNat) s :=
  (execLdBVx_eq x s).trans (if_pos h)

/-! ### The statements -/

/-- Settles O37: an image that fits is one block write at 0x200. -/
theorem loadCopiesImageOrChangesNothing : Obligations.LoadCopiesImageOrChangesNothing := by
  refine ⟨fun bytes s h => ?_, fun bytes s h => ?_⟩
  · exact ⟨_, loadCommand_of_fits h, rfl, fun _ hk => s.writeBytes_readByte_add programBase hk,
      s.writeBytes_keepsBytes programBase bytes, (s.writeBytes_keeps programBase bytes).report_ok⟩
  · exact ⟨_, loadCommand_of_too_large h, s.report_raisedFrom nofun⟩

/-- Settles O53: the report of `OK` leaves `PC` and the word there, so the state is parked as before. -/
theorem parkedStateIsAFixedPoint : Obligations.ParkedStateIsAFixedPoint := fun s h =>
  ⟨_, step_of_parked h, rfl, fun q _ => s.report_ok_keeps q, h⟩

/-- Settles O35. -/
theorem waitingStepMakesNoProgress : Obligations.WaitingStepMakesNoProgress := fun s _ hpc hd hk =>
  ⟨_, step_of_waiting hpc hd hk, rfl, fun q _ => s.report_ok_keeps q⟩

/-- Settles O54: `I` is 0 in a created state, below the program. -/
theorem storesAtResetAreWriteProtected : Obligations.StoresAtResetAreWriteProtected := by
  intro c x
  have hlow : (State.created c).i.toNat < 0x200 := show (0#16).toNat < 0x200 by decide
  exact ⟨⟨_, exec_ldBVx_of_low hlow, (State.created c).report_raisedFrom nofun⟩,
    ⟨_, exec_ldMemVx_of_low hlow, (State.created c).report_raisedFrom nofun⟩⟩

end Sys2Proof.Machine
end
